-- ==== Sys2Proof/Word.lean ====
section
/-! DEFINITION. The word types, and the byte orders of station memory (little-endian, 00_scope.md "Byte order")
and of the Station Bus (most significant byte first, R206). -/

namespace Sys2Proof

abbrev Byte := BitVec 8

abbrev Word16 := BitVec 16

abbrev Word32 := BitVec 32

abbrev Word64 := BitVec 64

/-- The unsigned integer that little-endian bytes hold. -/
def leNat : List Byte → Nat
  | [] => 0
  | b :: rest => b.toNat + 256 * leNat rest

/-- `n` little-endian bytes of a number, its low `8 * n` bits. -/
def leBytes : Nat → Nat → List Byte
  | 0, _ => []
  | n + 1, v => BitVec.ofNat 8 v :: leBytes n (v / 256)

/-- The unsigned integer that bytes hold, most significant first. -/
def beNat (bytes : List Byte) : Nat := leNat bytes.reverse

/-- `n` bytes of a number, most significant first. -/
def beBytes (n v : Nat) : List Byte := (leBytes n v).reverse

/-- `n` zero bytes: reserved bytes are written as 0 (R205). -/
def zeroBytes (n : Nat) : List Byte := List.replicate n 0

end Sys2Proof
end

