-- ==== Sys2Proof/Syntax.lean ====
section
/-! DEFINITION. The commands: one constructor for each row of spec/opcode_table.json, in the table's order. -/

namespace Sys2Proof

/-- A command of the part: a register write, a reset, an input's change, or an event that reaches the part or comes
about in it. -/
inductive Instr where
  /-- START: a CONTROL write naming START alone (R181). -/
  | start
  /-- STOP: a CONTROL write naming STOP alone (R181). -/
  | stop
  /-- ABORT: a CONTROL write naming ABORT alone (R181). -/
  | abort
  /-- RESET: a CONTROL write naming RESET, alone or with others (R171, R172). -/
  | reset
  /-- CONTROL_SEVERAL_COMMANDS: the value written names two or more commands, RESET not among them (R171). -/
  | controlSeveralCommands (value : Word32)
  /-- ANCHOR_REGISTER_WRITE: to ANCHOR_HIGH when `high`, else to ANCHOR_LOW (R171). -/
  | anchorRegisterWrite (high : Bool) (value : Word32)
  /-- STATUS_WRITE (R171). -/
  | statusWrite (value : Word32)
  /-- CAUSE_ENABLE_WRITE (R171, R189). -/
  | causeEnableWrite (value : Word32)
  /-- NUDGE, whatever the value (R171). -/
  | nudge (value : Word32)
  /-- OTHER_REGISTER_WRITE: a write of `width` bytes at `offset` that is no 32-bit access to a register, or a CONTROL
  write naming no command (R203). -/
  | otherRegisterWrite (offset width : Nat) (value : Word64)
  /-- POWER_ON_RESET (R172). -/
  | powerOnReset
  /-- FUNCTION_RESET (R172). -/
  | functionReset
  /-- ARBITER_GRANT: one turn of the arbiter (R173). -/
  | arbiterGrant
  /-- READ_COMPLETION of the read numbered `read`, with the bytes returned (R175). -/
  | readCompletion (read : Nat) (data : List Byte)
  /-- READ_ERROR_COMPLETION (R175). -/
  | readErrorCompletion (read : Nat)
  /-- READ_COMPLETION_TIMEOUT (R175). -/
  | readCompletionTimeout (read : Nat)
  /-- WALK_RECHECK_EXPIRY (R126, R137). -/
  | walkRecheckExpiry
  /-- FRAME_ACCUMULATED (R92). -/
  | frameAccumulated
  /-- GAP_COMPLETE (R151). -/
  | gapComplete
  /-- HEAD_WAIT_TIMEOUT (R151). -/
  | headWaitTimeout
  /-- ARBITRATION_LOST (R152). -/
  | arbitrationLost
  /-- SEND_MISMATCH (R153). -/
  | sendMismatch
  /-- TELEGRAM_SENT (R153). -/
  | telegramSent
  /-- REPLY_RECEIVED: the reply's bytes as read, from its code to its check byte (R154). -/
  | replyReceived (bytes : List Byte)
  /-- REPLY_SLOT_TIMEOUT (R154). -/
  | replySlotTimeout
  /-- SLOT_DOMINANT_EARLY (R154). -/
  | slotDominantEarly
  /-- BUSY_REST_EXPIRY of the request of that number (R156). -/
  | busyRestExpiry (request : Nat)
  /-- BREAK_OFF (R151). -/
  | breakOff
  /-- TELEGRAM_RECEIVED: the bytes as read, from byte 0 to the check byte (R160); with no byte, the first dominant bit
  of another station's telegram (R148, R151, log 50). -/
  | telegramReceived (bytes : List Byte)
  /-- ARRIVED, with the carriage position in µm (R15, R161). -/
  | arrived (x y : Word32)
  /-- JAMMED, with the carriage position in µm (R15, R161). -/
  | jammed (x y : Word32)
  /-- HOT, with the panel temperature (R15, R161). -/
  | hot (temperature : Word16)
  /-- LID_OPENED (R8, R161). -/
  | lidOpened
  /-- LID_CLOSED (R6, R161). -/
  | lidClosed
  /-- OWN_REPLY_SENT: the part's reply has ended or broken off (R160). -/
  | ownReplySent
  /-- FALSE_START (R160). -/
  | falseStart
  /-- NOISE_PULSE (R170). -/
  | noisePulse
  /-- CLEAR_PULSE_END (R163). -/
  | clearPulseEnd
  /-- TRIM_PULSE_MEASURED, with the release delay in ns (R166). -/
  | trimPulseMeasured (delay : Nat)
  /-- PLATE_RECHECK_EXPIRY (R7, R14). -/
  | plateRecheckExpiry
  /-- MOTION_TIMER_EXPIRY (R16). -/
  | motionTimerExpiry
  /-- EXPOSURE_TIMER_EXPIRY of the member record at that place, from 0 (R18). -/
  | exposureTimerExpiry (member : Nat)
  /-- FRAME_TIMER_EXPIRY of the member record at that place, from 0 (R20). -/
  | frameTimerExpiry (member : Nat)
  /-- EXPOSED_PACKET (R62). -/
  | exposedPacket (tag : Byte)
  /-- ROW_PACKET: the bytes after its type byte, in the four fields of a whole packet; a packet of another length ends
  within one of them or goes on in the last (R65, R206). -/
  | rowPacket (tag row samples check : List Byte)
  /-- FRAME_END_PACKET (R68). -/
  | frameEndPacket (tag : Byte) (count : Word16)
  /-- FIFO_ROW_WRITTEN (R67). -/
  | fifoRowWritten
  /-- ACK_PACKET, with its which byte (R71). -/
  | ackPacket (which : Byte)
  /-- ACK_TIMER_EXPIRY (R72). -/
  | ackTimerExpiry
  /-- UNKNOWN_PACKET (R206). -/
  | unknownPacket (bytes : List Byte)
  /-- ROW_COMPUTED (R50). -/
  | rowComputed
  /-- DRY_RECHECK_EXPIRY (R109). -/
  | dryRecheckExpiry
  /-- DRY_TIMER_EXPIRY (R110). -/
  | dryTimerExpiry
  /-- REFERENCE_ROW_BUILT (R95). -/
  | referenceRowBuilt
  /-- LINK_STATE_CHANGE: the link to the host is now up, or down (R177). -/
  | linkStateChange (up : Bool)
  /-- FUNCTION_ENABLE_CHANGE: the two enables as they now stand (R177, R189). -/
  | functionEnableChange (memory message : Bool)
  deriving DecidableEq, Repr

end Sys2Proof
end

