-- ==== Sys2Proof/Config.lean ====
section
/-! DEFINITION. What the part fixes: sizes, marks and limits that the rules give as numbers, and the two free values
of the model. -/

namespace Sys2Proof.Config

/-- DESIGN CHOICE, log 1, safe. Frame memory is undefined after power-on (R58): the byte read at an address that
nothing has written since the power-on of that number. No body: nothing can be proved of its value. -/
opaque undefinedFrameByte : (powerOn address : Nat) → Byte

/-- DESIGN CHOICE, log 49, safe. Whether LID_OPENED in SHUTDOWN gives its code to a PLATE order that OUTPUT_STARVED has
failed, as R201's example has it, or fails nothing, as R200 says; by whether the order's capture has been reported
ended. No body: nothing can be proved of its value. -/
opaque lidOpenedAfterStarved : (captureEnded : Bool) → Bool

/-- Rows and columns of a frame, a reference and a plane (R34, R49). -/
def frameRows : Nat := 4096

def frameColumns : Nat := 4096

/-- One unpacked row in frame memory and one row of a 16-bit plane (R49, R66). -/
def rowBytes : Nat := 8192

/-- Packed sample bytes of a ROW packet (R65, R66). -/
def packedRowBytes : Nat := 7168

/-- One frame slot, one cache entry, one reference image: 32 MiB (R66, R78, R80). -/
def imageBytes : Nat := 33554432

/-- Pixels of a tile, a frame and an image (R53, R96). -/
def imagePixels : Nat := 16777216

def slotCount : Nat := 16

def cacheEntries : Nat := 48

/-- The cache entries lie after the sixteen slots (R80). -/
def cacheBase : Nat := 536870912

/-- At most 32 entries are pinned (R82). -/
def pinLimit : Nat := 32

/-- The largest sample and the largest density code (R34, R42). -/
def sampleMax : Nat := 16383

/-- The row FIFO's places and its two marks (R58, R70). -/
def fifoPlaces : Nat := 64

def pauseMark : Nat := 48

def resumeMark : Nat := 16

/-- The ack timer, in ms, and the sends of one flow request (R72). -/
def ackLimit : Nat := 10

def maxSends : Nat := 3

/-- The outstanding trigger list (R58, R61). -/
def triggerPlaces : Nat := 5

/-- HOLD's two marks (R111). -/
def holdRaise : Nat := 48

def holdRelease : Nat := 16

/-- Tiles the merge queue may hold when the Plate Controller reserves (R14). -/
def mergeQueueRoom : Nat := 2

/-- Telegram queue places (R147, R157) and attempt limits (R155, R156). -/
def busQueuePlaces : Nat := 8

def lostLimit : Nat := 16

def spoiledLimit : Nat := 3

def busyLimit : Nat := 5

def corruptLimit : Nat := 3

/-- The gap a station waits for, in bit-times (R151). -/
def gapBits : Nat := 8

/-- Trim pulses and the largest release delay, in ns, that leaves the trim VALID (R166). -/
def trimPulses : Nat := 8

def trimDelayLimit : Nat := 250

/-- A request's largest size and the boundary it does not cross (R173, R175). -/
def requestBytes : Nat := 512

def requestBoundary : Nat := 4096

/-- Reads the port holds in progress (R173). -/
def maxReads : Nat := 32

/-- Consecutive failed chain reads that fault the run (R128). -/
def chainReadLimit : Nat := 3

/-- One unit of an extent's size (R103). -/
def extentUnit : Nat := 65536

/-- Carriage travel on each axis, in µm (R132). -/
def travel : Int := 400000

/-- Retakes of one member or frame (R21, R25). -/
def retakeLimit : Nat := 2

end Sys2Proof.Config
end

