-- ==== Sys2Proof/Machine/State.lean ====
section
/-! DEFINITION. The part's state: the eight blocks' state as their chapters list it, frame memory, and the queue of
waiting commands. Plain data throughout. The pieces no rule names are the model's own and say so. -/

namespace Sys2Proof.Machine

/-! ## Station Memory Port and run control (chapter 8) -/

/-- The seven run states (section 8.4). -/
inductive RunState where
  | halted | starting | running | draining | aborting | stopped | faulted
  deriving DecidableEq, Repr

/-- The nine fault reasons (10.1). -/
inductive FaultReason where
  | none | anchorAddress | anchorRead | anchorLayout | anchorWindow | anchorPool | anchorDirectory | chainRead
  | writeFailed
  deriving DecidableEq, Repr

/-- The six causes (R188). -/
inductive Cause where
  | orderEnd | tileEnd | notice | settled | fault | refused
  deriving DecidableEq, Repr

/-- One flag, or one enable, for each cause. -/
structure CauseSet where
  orderEnd : Bool
  tileEnd : Bool
  notice : Bool
  settled : Bool
  fault : Bool
  refused : Bool
  deriving DecidableEq, Repr

/-- The arbiter's four requesters, in its cycle's order (R173). -/
inductive Requester where
  | orderWalker | referenceCache | tileWriter | runControl
  deriving DecidableEq, Repr

/-- The planes of a tile; `positive` is POSITIVE16 or POSITIVE8 by the order's width (R46). -/
inductive Plane where
  | density | positive | mask
  deriving DecidableEq, Repr

/-- What a requester does when its request is accepted, completed or reported failed. `op` is the number of the
operation the request belongs to (log 26): a completion whose operation is over is not acted on. -/
inductive Purpose where
  /-- R125 step 1. -/
  | chainLink (op : Nat)
  /-- R125 step 4. -/
  | chainHeader (op address : Nat)
  /-- R130 step 3. -/
  | orderBody (op offset : Nat)
  /-- A sample the Plate Controller asked for (R137). -/
  | cancelPlate (op : Nat)
  /-- A recheck sample of the TAKEN order (R137). -/
  | cancelTaken (op : Nat)
  /-- The activation sample (R139). -/
  | cancelActivation (op : Nat)
  /-- R135. -/
  | tonePiece (owner offset : Nat)
  /-- R79, R91. -/
  | directoryEntry (op : Nat)
  /-- ACTIVE: the order is handed on once it is accepted (R139, log 31). -/
  | activeState (op : Nat)
  /-- TAKEN, and the groups of final writes: nothing follows the acceptance. -/
  | orderWrite
  /-- The state of a final write (R144). -/
  | finalState (fromTaken : Bool)
  /-- WITHDRAWN of an order withdrawn before the take (R129). -/
  | withdrawnState
  /-- R145. -/
  | ordersFinished
  /-- R117. -/
  | tilesPublished (tileEnd : Bool)
  /-- R140. -/
  | slotGroup
  /-- R88. -/
  | loadPiece (entry op offset : Nat)
  /-- R95. -/
  | writeBackEntry (op : Nat)
  /-- The Reference Cache's writes that nothing follows. -/
  | cacheWrite
  /-- The last request of a built row (R95, R97). -/
  | rowWritten (op row : Nat)
  /-- UPDATING, or the fields, of a write-back (R95, R97). -/
  | entryWritten (op : Nat)
  /-- R97. -/
  | validWritten (op : Nat)
  /-- R108. -/
  | descriptor (op : Nat)
  /-- R104. -/
  | poolEntry (op : Nat)
  /-- R102. -/
  | pendingRecord
  /-- A request of a plane's row that is not its last (R112). -/
  | rowPart
  /-- The last request of a plane's row (R112). -/
  | planeRow (plane : Plane)
  /-- R113. -/
  | extentClose
  /-- R105, first write. -/
  | takeListed
  /-- R105, second write. -/
  | takeMarked
  /-- R105, third write. -/
  | takeIndexed
  /-- REJECTED, the rejected-extent count, a reset take index (R104, R107). -/
  | poolWrite
  /-- R115 step 2. -/
  | publicationPart
  /-- R115 step 3. -/
  | published (tile : Nat)
  /-- R119. -/
  | failedRecord
  /-- R120. -/
  | finishRecord
  /-- R178. -/
  | anchorPiece (op offset : Nat)
  /-- R180, R182 step 3. -/
  | zeroGroup
  /-- Presence, rate and flag at the end of STARTING (R182, R183). -/
  | startReport
  /-- Presence, rate and flag after a change (R167, R180). -/
  | rateReport
  /-- R190, first write. -/
  | noticeRecord
  /-- R190, last write. -/
  | noticeCount
  /-- R189. -/
  | interrupt
  deriving DecidableEq, Repr

/-- A read of so many bytes, a write of bytes, or the interrupt message (R173, R189). -/
inductive RequestKind where
  | read (length : Nat)
  | write (data : List Byte)
  | message
  deriving DecidableEq, Repr

/-- A request presented to the port; `more` while further writes of its group follow (R173). -/
structure Request where
  kind : RequestKind
  address : Nat
  purpose : Purpose
  more : Bool
  deriving DecidableEq, Repr

/-- A read in progress (R175), by its number (log 26); `sent` is false when the port could not send it (log 8). -/
structure ReadInProgress where
  number : Nat
  requester : Requester
  address : Nat
  length : Nat
  purpose : Purpose
  sent : Bool
  deriving DecidableEq, Repr

/-- Bytes of a read that was split, at their offset (R175). -/
structure Piece where
  offset : Nat
  data : List Byte
  deriving DecidableEq, Repr

/-- What the port sent on the link (R174). -/
inductive LinkItem where
  | write (address : Nat) (data : List Byte)
  | read (address length : Nat)
  | message
  deriving DecidableEq, Repr

/-- The anchor settings in force (R179); `anchor` is the block's own address (log 19). -/
structure Settings where
  anchor : Nat
  windowBase : Nat
  windowSize : Nat
  /-- The port's copy (R179); an examination reads the field itself (R125, log 47). -/
  chainHead : Nat
  poolBase : Nat
  poolCount : Nat
  directory : Nat
  directoryCount : Nat
  preferQuick : Bool
  recheck : Nat
  motion : Nat
  frame : Nat
  dry : Nat
  exposure : List Nat
  deriving DecidableEq, Repr

/-- The step of STARTING, or of ABORTING, in progress (R182 to R184, R186). -/
inductive StartStep where
  | idle
  /-- The anchor is being read; so many of its requests are unanswered. -/
  | readingAnchor (op awaited : Nat)
  /-- The Station Bus Controller has its part. -/
  | busPart
  /-- Presence, rate and flag are being written. -/
  | reporting
  /-- ABORTING's clear pulse has been requested. -/
  | pulsing
  deriving DecidableEq, Repr

/-- The two Station Bus rates. -/
inductive Rate where
  | base | quick
  deriving DecidableEq, Repr

/-- The presence flags of addresses 1 to 5 (R147, R168). -/
structure Presence where
  transport : Bool
  panel : Bool
  ring : Bool
  gauge : Bool
  lid : Bool
  deriving DecidableEq, Repr

/-- The Station Memory Port and run control (R171 to R190). -/
structure Port where
  anchorRegister : Word64
  runState : RunState
  faultReason : FaultReason
  causes : CauseSet
  enables : CauseSet
  settings : Option Settings
  freshMark : Bool
  startStep : StartStep
  /-- The START under way takes the form of R182 (else that of R183). -/
  startFresh : Bool
  anchorPieces : List Piece
  /-- The zero group is presented and not yet accepted. -/
  zeroPending : Bool
  noticeCount : Word32
  /-- Presence, rate and flag as handed over by the bus controller (R167, R168). -/
  presence : Presence
  rate : Rate
  degraded : Bool
  walkerRequests : List Request
  cacheRequests : List Request
  writerRequests : List Request
  controlRequests : List Request
  lastGranted : Requester
  groupLock : Option Requester
  reads : List ReadInProgress
  nextRead : Nat
  linkUp : Bool
  memoryEnable : Bool
  messageEnable : Bool
  /-- The model's own record of what was sent, oldest first (log 24). -/
  sent : List LinkItem
  deriving DecidableEq, Repr

/-! ## Orders (chapters 6 and 10) -/

/-- The result codes, with the values of R191. -/
inductive ResultCode where
  | none | badOrder | address | noReference | noPlate | platePresent | motionTimeout | motionFault | lampFault
  | lidOpen | busFailure | cameraTimeout | frameDamaged | outputStarved | resultSpace | memoryError | aborted
  deriving DecidableEq, Repr

/-- The clamp flags, in the bit order of 10.3. -/
structure ClampFlags where
  level : Bool
  floor : Bool
  ceiling : Bool
  flatFloor : Bool
  threshold : Bool
  average : Bool
  service : Bool
  maskDropped : Bool
  deriving DecidableEq, Repr

/-- A member entry of a PLATE body (10.3). -/
structure MemberSpec where
  level : Nat
  step : Nat
  dose : Nat
  dark : Nat
  deriving DecidableEq, Repr

/-- The dark-field entry of a PLATE body (10.3). -/
structure DarkfieldSpec where
  level : Nat
  step : Nat
  dark : Nat
  threshold : Nat
  deriving DecidableEq, Repr

/-- A PLATE body (10.3). Member entries beyond the count are not kept; the dark-field entry is none when the flag is
clear (R204). -/
structure PlateBody where
  samePlate : Bool
  channel : Nat
  memberCount : Nat
  flatIndex : Nat
  density : Bool
  positive : Bool
  mask : Bool
  width : Nat
  mirror : Bool
  tileEnd : Bool
  nx : Nat
  ny : Nat
  floor : Nat
  ceiling : Nat
  flatFloor : Nat
  originX : Nat
  originY : Nat
  stepX : Int
  stepY : Int
  capacity : Nat
  toneTable : Nat
  descriptor : Nat
  recordArea : Nat
  listArea : Nat
  members : List MemberSpec
  darkfield : Option DarkfieldSpec
  deriving DecidableEq, Repr

/-- A REFERENCE body (10.3); `kind` is the byte read. -/
structure ReferenceBody where
  kind : Nat
  channel : Nat
  step : Nat
  frames : Nat
  target : Nat
  dark : Nat
  level : Nat
  pin : Bool
  dose : Nat
  x : Nat
  y : Nat
  deriving DecidableEq, Repr

/-- A telegram slot of a SERVICE body (10.3). -/
structure ServiceSlot where
  target : Nat
  command : Byte
  length : Nat
  data : List Byte
  deriving DecidableEq, Repr

/-- A SERVICE body (10.3). -/
structure ServiceBody where
  count : Nat
  slots : List ServiceSlot
  deriving DecidableEq, Repr

/-- The body of an order, by kind. -/
inductive OrderBody where
  | plate (body : PlateBody)
  | reference (body : ReferenceBody)
  | service (body : ServiceBody)
  deriving DecidableEq, Repr

/-- The three kinds of order; any other value is an unknown kind (R123). -/
inductive OrderKind where
  | plate | reference | service | unknown
  deriving DecidableEq, Repr

/-- The fields of a directory entry that a decision uses (R78, R79). -/
structure DirectoryEntry where
  state : Nat
  kind : Nat
  channel : Nat
  step : Nat
  pin : Bool
  dose : Nat
  generation : Word32
  image : Nat
  deriving DecidableEq, Repr

/-- What an index is tested for (R134, R91). -/
inductive DirectoryTest where
  | flat (channel : Nat)
  | dark (step : Nat)
  /-- The target of a REFERENCE order; the dark it must differ from, for a FLAT. -/
  | target (notIndex : Option Nat)
  deriving DecidableEq, Repr

/-- An index an order names, with the test it must pass. -/
structure DirectoryRole where
  index : Nat
  test : DirectoryTest
  deriving DecidableEq, Repr

/-- A directory entry as read at the take, by index. -/
structure DirectoryRead where
  index : Nat
  entry : DirectoryEntry
  deriving DecidableEq, Repr

/-- A cache entry held for an index. -/
structure CacheHold where
  index : Nat
  entry : Nat
  deriving DecidableEq, Repr

/-- The setup step of a TAKEN order (R124). -/
inductive SetupStep where
  | reading | resolving | resolved
  deriving DecidableEq, Repr

/-- The TAKEN order (R124, R130 to R138). `number` is the model's own name of the order (log 26). -/
structure TakenOrder where
  number : Nat
  address : Nat
  kind : OrderKind
  tag : Word32
  setup : SetupStep
  /-- The body or directory read under way. -/
  reading : Option Nat
  bodyPieces : List Piece
  bodyAwaited : Nat
  body : Option OrderBody
  clamps : ClampFlags
  /-- Indices still to be read and tested, in order, in the setup step RESOLVING (R130 step 7). -/
  roles : List DirectoryRole
  directory : List DirectoryRead
  /-- Indices still to be resolved, in order. -/
  toResolve : List Nat
  holds : List CacheHold
  bank : Option Nat
  primary : ResultCode
  secondary : ResultCode
  /-- The final write has begun. -/
  ending : Bool
  recheckSample : Option Nat
  activationSample : Option Nat
  deriving DecidableEq, Repr

/-- The ACTIVE order (R124, R139 to R144). -/
structure ActiveOrder where
  number : Nat
  address : Nat
  kind : OrderKind
  tag : Word32
  body : OrderBody
  clamps : ClampFlags
  directory : List DirectoryRead
  holds : List CacheHold
  bank : Option Nat
  published : Nat
  retakes : Nat
  lateEvents : Nat
  thickness : Nat
  captureEnded : Bool
  withdrawn : Bool
  /-- The Tile Writer's records finished, the Reference Cache's work ended, or a SERVICE order's last slot handled
  (R143). -/
  workEnded : Bool
  /-- A SERVICE slot group is presented and not yet accepted. -/
  slotGroupOut : Bool
  ending : Bool
  primary : ResultCode
  secondary : ResultCode
  deriving DecidableEq, Repr

/-- The walk phase (R124). -/
inductive WalkPhase where
  | off | examining | waiting | barred
  deriving DecidableEq, Repr

/-- The state of a tone bank (R124). -/
inductive BankState where
  | free | loading | loaded
  deriving DecidableEq, Repr

/-- A tone bank's contents: the built-in table of R45, or a host table's 4096 values. -/
inductive ToneTable where
  | builtIn
  | host (values : List Nat)
  deriving DecidableEq, Repr

/-- A tone bank (R124, R135). -/
structure ToneBank where
  state : BankState
  owner : Option Nat
  table : ToneTable
  pieces : List Piece
  awaited : Nat
  deriving DecidableEq, Repr

/-- The Order Walker (R124). -/
structure Walker where
  position : Option Nat
  phase : WalkPhase
  /-- The number of the examination under way. -/
  examination : Option Nat
  readFailures : Nat
  recheckTimer : Option Nat
  taken : Option TakenOrder
  active : Option ActiveOrder
  bank0 : ToneBank
  bank1 : ToneBank
  ordersFinished : Word32
  tilesPublished : Word32
  /-- Tone table reads still to be presented; they give way to the other requests (R124). -/
  toneReads : List Request
  deriving DecidableEq, Repr

/-! ## The Plate Controller (chapters 1 and 9) -/

/-- The phases of R1. -/
inductive PlatePhase where
  | idle | interlock | gauging | tileBoundary | reserving | moving | exposing | collecting | captureDone | sending
  | shutdown
  deriving DecidableEq, Repr

inductive MemberKind where
  | transmitted | darkfield
  deriving DecidableEq, Repr

/-- The member phases of R1. -/
inductive MemberPhase where
  | waiting | lighting | exposing | streaming | full | damaged
  deriving DecidableEq, Repr

/-- A member record with its two timers (R1). -/
structure Member where
  index : Nat
  kind : MemberKind
  slot : Nat
  tag : Option Byte
  phase : MemberPhase
  retakes : Nat
  exposureTimer : Option Nat
  frameTimer : Option Nat
  deriving DecidableEq, Repr

inductive LidState where
  | opened | closed | unknown
  deriving DecidableEq, Repr

inductive PanelState where
  | dark
  | lit (channel level : Nat)
  | unsure
  deriving DecidableEq, Repr

inductive RingState where
  | dark
  | lit (level : Nat)
  | unsure
  deriving DecidableEq, Repr

/-- The steps of the Plate Controller's sequences. A step that sends a telegram ends with its outcome; the others end
at once. -/
inductive PlateStep where
  /-- LIDSTATE on entering INTERLOCK with the lid UNKNOWN (R7). -/
  | interlockLid
  /-- GAUGE (R11). -/
  | gauge
  /-- DARK when the panel is not DARK (R9, R10). -/
  | darkIfLit
  /-- RING_OFF when the ring is not DARK (R9, R10). -/
  | ringOffIfLit
  /-- GOTO (R16). -/
  | goto (x y : Nat)
  /-- The lid check, with LIDSTATE when UNKNOWN (R8). -/
  | lidCheck
  /-- DARK whatever the panel state shows (R17, R19, R24). -/
  | dark
  /-- RING_OFF whatever the ring state shows (R19, R24). -/
  | ringOff
  /-- LIGHT (R17, R24). -/
  | light (channel level : Nat)
  /-- RING (R17). -/
  | ring (level : Nat)
  /-- The trigger request of the member record at that place (R18). -/
  | trigger (place : Nat)
  /-- The lamp-off step has ended (R19). -/
  | lampsOff
  /-- The lamp step of a REFERENCE order has ended (R24). -/
  | referenceStart
  /-- DARK and RING_OFF after the last frame have been answered (R25). -/
  | referenceEnd
  /-- A SERVICE slot (R26). -/
  | service (slot : Nat)
  /-- The shutdown telegrams (R198). -/
  | shutdownHalt
  | shutdownDark
  | shutdownRingOff
  deriving DecidableEq, Repr

/-- What a cancel sample was asked for (R13, R7 and R14, R25, R26). -/
inductive SampleUse where
  | boundary | wait | referenceFrame | serviceSlot
  deriving DecidableEq, Repr

/-- A cancel sample asked for and not yet answered. -/
structure Sample where
  op : Nat
  use : SampleUse
  deriving DecidableEq, Repr

/-- What an activation hands over (R2). -/
structure PlateOrder where
  number : Nat
  tag : Word32
  body : OrderBody
  motion : Nat
  frame : Nat
  recheck : Nat
  exposure : List Nat
  deriving DecidableEq, Repr

/-- The Plate Controller (R1, R197). -/
structure Plate where
  phase : PlatePhase
  order : Option PlateOrder
  capture : Nat
  frameNumber : Nat
  members : List Member
  tileRetakes : Nat
  motionTimer : Option Nat
  retakes : Nat
  frameRetakes : Nat
  recheckTimer : Option Nat
  lateEvents : Nat
  thickness : Option Nat
  lid : LidState
  openedSeen : Bool
  plateChange : Bool
  panel : PanelState
  ring : RingState
  movingMark : Bool
  fallbackMark : Bool
  /-- The steps of the present sequence still to be taken. -/
  plan : List PlateStep
  /-- The step whose telegram's outcome is awaited. -/
  awaiting : Option PlateStep
  sample : Option Sample
  /-- The slot of the REFERENCE frame, while the Plate Controller has one (R24, R25). -/
  frameSlot : Option Nat
  /-- The three conditions of R25 for the next frame. -/
  frameAccumulated : Bool
  frameSampled : Bool
  serviceSlot : Nat
  /-- The group of a SERVICE slot's outcome has been handed over and is not yet accepted (R140). -/
  slotGroupOut : Bool
  interrupted : Option Nat
  /-- The end of SHUTDOWN has been reported (R200). -/
  shutdownReported : Bool
  deriving DecidableEq, Repr

/-! ## The Station Bus Controller (chapter 7) -/

inductive LineState where
  | idle | sending | receiving | replying | clearing
  deriving DecidableEq, Repr

/-- Who put a telegram request into the queue (R157, R165). -/
inductive BusRequester where
  | plate
  | rollCall (address : Nat)
  | rate
  deriving DecidableEq, Repr

/-- The outcomes of an attempt and of a request (R155). -/
inductive BusOutcome where
  | ok | refused | lost | corrupt | noReply | busy | cleared
  deriving DecidableEq, Repr

/-- A telegram request (R147). `number` is the model's own name of it (log 26). The code and data of the last
well-checked reply are kept with it; code 0 while none was received (R154). -/
structure BusRequest where
  number : Nat
  requester : BusRequester
  priority : Nat
  target : Nat
  command : Byte
  data : List Byte
  lost : Nat
  spoiled : Nat
  busy : Nat
  resting : Bool
  lastOutcome : BusOutcome
  replyCode : Nat
  replyData : List Byte
  deriving DecidableEq, Repr

/-- Who asked for a clear pulse (R163). -/
inductive ClearRequester where
  | plate | runControl | busController
  deriving DecidableEq, Repr

/-- The Station Bus Controller's part of STARTING (R169). -/
inductive BusStart where
  | pulse | rollCall | trim | rate
  deriving DecidableEq, Repr

/-- What the part put on the line. -/
inductive LineItem where
  /-- The bytes of a telegram whose start mark has begun. -/
  | telegram (bytes : List Byte)
  /-- The part's reply to a notice or a telegram to it. -/
  | reply (bytes : List Byte)
  | clearPulse
  | trimPulse
  deriving DecidableEq, Repr

/-- The Station Bus Controller (R147). -/
structure Bus where
  line : LineState
  gap : Nat
  /-- A transaction has broken off and its end is awaited (R151, R153, log 20). -/
  breakOff : Bool
  rate : Rate
  trimValid : Bool
  degraded : Bool
  queue : List BusRequest
  /-- RATE(QUICK), sent ahead of the queue (R165). -/
  rateRequest : Option BusRequest
  /-- The number of the request whose attempt is on the line. -/
  attempt : Option Nat
  corruptRun : Nat
  pendingClear : Option (List ClearRequester)
  /-- The pulse being made is the bus controller's own, and began at QUICK (R156, R167). -/
  clearOwn : Bool
  clearAtQuick : Bool
  presence : Presence
  lineNoise : Bool
  start : Option BusStart
  /-- Addresses whose PING has not been reported (R168). -/
  pings : List Nat
  /-- The delays measured so far, in ns (R166). -/
  trimDelays : List Nat
  trimPulseOut : Bool
  nextRequest : Nat
  /-- The model's own record of what was put on the line, oldest first (log 24). -/
  sent : List LineItem
  deriving DecidableEq, Repr

/-! ## Frame Intake (chapter 3) -/

inductive TriggerPhase where
  | awaitingExposed | streaming
  deriving DecidableEq, Repr

/-- An entry of the outstanding trigger list (R58). -/
structure Trigger where
  tag : Byte
  slot : Nat
  phase : TriggerPhase
  expected : Nat
  damaged : Bool
  deriving DecidableEq, Repr

/-- A row in the row FIFO, its samples as packed in the packet, or a frame-end mark (R58, R68). -/
inductive FifoItem where
  | row (tag : Byte) (row : Nat) (samples : List Byte)
  | frameEnd (tag : Byte) (count : Nat)
  deriving DecidableEq, Repr

inductive FlowState where
  | flowing | pauseSent | paused | resumeSent
  deriving DecidableEq, Repr

inductive SlotState where
  | free | reserved | filling | full | damaged | merging | accumulator
  deriving DecidableEq, Repr

/-- A frame slot of the table (R58); `owner` is an order's number. -/
structure Slot where
  state : SlotState
  tag : Option Byte
  owner : Option Nat
  deriving DecidableEq, Repr

/-- The back channel's packets (R59, 10.11). -/
inductive BackPacket where
  | trigger (tag : Byte) (step : Nat)
  | cancel (tag : Byte)
  | pause
  | resume
  deriving DecidableEq, Repr

/-- A trigger request that waits for a place on the list (R61). -/
structure TriggerRequest where
  place : Nat
  slot : Nat
  step : Nat
  deriving DecidableEq, Repr

/-- Frame Intake (R58). -/
structure Intake where
  nextTag : Byte
  triggers : List Trigger
  fifo : List FifoItem
  flow : FlowState
  ackTimer : Option Nat
  sends : Nat
  slots : List Slot
  reservation : Option Nat
  waitingTrigger : Option TriggerRequest
  /-- The model's own record of the packets sent, oldest first (log 24). -/
  sent : List BackPacket
  deriving DecidableEq, Repr

/-! ## The Reference Cache (chapter 4) -/

inductive CacheState where
  | empty | loading | ready | installing
  deriving DecidableEq, Repr

/-- A load in progress (R88): its number, the image address, the offset of the next request, the bytes landed. -/
structure Load where
  op : Nat
  image : Nat
  next : Nat
  landed : Nat
  deriving DecidableEq, Repr

/-- A cache entry (R80). -/
structure CacheEntry where
  state : CacheState
  index : Nat
  generation : Word32
  holds : Nat
  pinned : Bool
  load : Option Load
  deriving DecidableEq, Repr

/-- How far a REFERENCE order's result has come (R92 to R97). -/
inductive ReferenceStage where
  | accumulating | choosing | readingEntry | building | completing
  deriving DecidableEq, Repr

/-- The Reference Cache's work for the ACTIVE REFERENCE order (R92 to R98, R139). -/
structure ReferenceWork where
  order : Nat
  flat : Bool
  target : Nat
  darkIndex : Nat
  darkEntry : Option Nat
  frames : Nat
  channel : Nat
  level : Nat
  step : Nat
  dose : Nat
  pin : Bool
  image : Nat
  stage : ReferenceStage
  /-- The lower-numbered accumulator and the other. -/
  accumulators : Option (Nat × Nat)
  accumulated : Nat
  frameInHand : Option Nat
  captureDone : Bool
  install : Option Nat
  op : Nat
  generation : Word32
  row : Nat
  sum : Nat
  deriving DecidableEq, Repr

/-- The Reference Cache (R80, R81, R82). -/
structure Cache where
  entries : List CacheEntry
  lru : List Nat
  pinRefused : Word32
  rotation : Nat
  work : Option ReferenceWork
  /-- Write-back requests still to be presented, which count as the install entry's (R88). -/
  writeBack : List Request
  deriving DecidableEq, Repr

/-! ## The Merge Engine (chapter 2) -/

inductive MergePhase where
  | idle | waiting | merging | held
  deriving DecidableEq, Repr

/-- An entry of the merge tile queue (R29). -/
structure MergeTile where
  tile : Nat
  x : Nat
  y : Nat
  retakes : Nat
  slots : List Nat
  darkSlot : Option Nat
  deriving DecidableEq, Repr

/-- The tile statistics (R53, R54). -/
structure TileStats where
  merged : Nat
  single : Nat
  clippedHigh : Nat
  clippedLow : Nat
  overBright : Nat
  referenceDefect : Nat
  maskSet : Nat
  densityMin : Nat
  densityMax : Nat
  deriving DecidableEq, Repr

/-- A transmitted member's dose and the entry of its dark (R30). -/
structure MergeMember where
  dose : Nat
  dark : Nat
  deriving DecidableEq, Repr

/-- The merge parameters (R30). -/
structure MergeParams where
  order : Nat
  floor : Nat
  ceiling : Nat
  flatFloor : Nat
  members : List MergeMember
  flat : Nat
  flatDose : Nat
  /-- The dark-field dark's entry and the threshold. -/
  darkfield : Option (Nat × Nat)
  density : Bool
  positive : Bool
  mask : Bool
  width : Nat
  mirror : Bool
  bank : Nat
  deriving DecidableEq, Repr

/-- The Merge Engine (R29). -/
structure Merge where
  phase : MergePhase
  queue : List MergeTile
  row : Nat
  stats : TileStats
  params : Option MergeParams
  deriving DecidableEq, Repr

/-! ## The Tile Writer (chapter 5) -/

/-- What an end mark or a failure mark carries (R52, R56). -/
structure TileMark where
  tile : Nat
  x : Nat
  y : Nat
  retakes : Nat
  stats : TileStats
  deriving DecidableEq, Repr

/-- One row of every plane produced; a plane not produced contributes nothing (R49). -/
structure RowEntry where
  tile : Nat
  row : Nat
  density : List Byte
  positive : List Byte
  mask : List Byte
  deriving DecidableEq, Repr

/-- The row queue's entries and marks (R101). -/
inductive QueueItem where
  | row (entry : RowEntry)
  | endMark (mark : TileMark)
  | failureMark (mark : TileMark)
  deriving DecidableEq, Repr

/-- A current extent (R101): size in 64 KiB units, bytes used so far. -/
structure Extent where
  listIndex : Nat
  address : Nat
  size : Nat
  used : Nat
  deriving DecidableEq, Repr

/-- A plane's current extent and fallback flag, and what the tile's record will say of it (R101, R116). -/
structure PlaneRecord where
  current : Option Extent
  fallback : Bool
  first : Nat
  count : Nat
  last : Nat
  deriving DecidableEq, Repr

/-- An order's reserved pool, as its descriptor gave it (R108). -/
structure ReservedPool where
  descriptor : Nat
  base : Nat
  count : Nat
  take : Nat
  dry : Bool
  deriving DecidableEq, Repr

/-- The output parameters (R101, R102). -/
structure OutputParams where
  order : Nat
  tag : Word32
  nx : Nat
  ny : Nat
  originX : Nat
  originY : Nat
  stepX : Int
  stepY : Int
  density : Bool
  positive : Bool
  wide : Bool
  mask : Bool
  recordArea : Nat
  listArea : Nat
  capacity : Nat
  tileEnd : Bool
  reserved : Option ReservedPool
  deriving DecidableEq, Repr

/-- The phases of R101. -/
inductive WriterPhase where
  | idle | writing | taking | dry | discarding | finishing
  deriving DecidableEq, Repr

/-- A scan under way (R104): the pool, the entry being read, the entries of the turn left after it. -/
structure Scan where
  op : Nat
  reserved : Bool
  index : Nat
  left : Nat
  deriving DecidableEq, Repr

/-- A take under way (R105): `listed` once its first write was accepted. -/
structure Take where
  reserved : Bool
  nextIndex : Nat
  extent : Extent
  listed : Bool
  deriving DecidableEq, Repr

/-- What the Tile Writer is doing. -/
inductive WriterTask where
  | none
  /-- PENDING records and the descriptor read (R102). -/
  | activating (descriptorRead : Option Nat)
  /-- The head row entry is being written; the planes still to write, and whether the first of them is on its way
  (R112). -/
  | row (planes : List Plane) (presented : Bool)
  /-- A pool is being scanned for the first of the planes (R104). -/
  | scanning (planes : List Plane) (scan : Scan)
  /-- An extent is being taken for the first of the planes (R105). -/
  | taking (planes : List Plane) (take : Take)
  /-- Every pool is dry for the first of the planes (R109). -/
  | dryWait (planes : List Plane)
  /-- The end mark at the head is being acted on (R115). -/
  | publishing
  deriving DecidableEq, Repr

/-- The Tile Writer (R101). -/
structure Writer where
  queue : List QueueItem
  hold : Bool
  params : Option OutputParams
  nextList : Nat
  density : PlaneRecord
  positive : PlaneRecord
  mask : PlaneRecord
  tile : Option Nat
  finished : List Nat
  commonTake : Nat
  dryTimer : Option Nat
  recheckTimer : Option Nat
  phase : WriterPhase
  rejected : Word32
  task : WriterTask
  /-- What the Order Walker told of the capture's end (R118). -/
  captureEnded : Bool
  interrupted : Option Nat
  deriving DecidableEq, Repr

/-! ## The whole part -/

/-- The reasons for which a step could stop the machine. No rule of the spec stops the part without a next state
(FAULTED is a run state, an order's failure is a result code), and no command of this model raises a fault. -/
inductive Fault where
  /-- An access to frame memory beyond its 2 GiB. Raised by no command: slots are 0..15 and entries 0..47. Safe. -/
  | noSuchFrameAddress
  deriving DecidableEq, Repr

/-- The reasons for which a command could have no meaning. -/
inductive Refusal where
  /-- Raised by an arm of `exec` whose command has no meaning yet; no arm does now. Safe. -/
  | notModelled (mnemonic : String)
  deriving DecidableEq, Repr

/-- The part. -/
structure State where
  port : Port
  walker : Walker
  plate : Plate
  bus : Bus
  intake : Intake
  cache : Cache
  merge : Merge
  writer : Writer
  /-- Frame memory: what has been written since power-on, in canonical form (`Memory.wf`). -/
  frame : List Host.Cell
  /-- The model's own count of power-ons, which tells apart the undefined contents (log 1). -/
  powerOns : Nat
  /-- The model's own number for the next operation (log 26). -/
  nextOp : Nat
  /-- The commands waiting, first in first out. -/
  pending : List Instr
  deriving DecidableEq, Repr

/-! ## Reset values -/

def CauseSet.clear : CauseSet := ⟨false, false, false, false, false, false⟩

def Presence.none : Presence := ⟨false, false, false, false, false⟩

def ClampFlags.none : ClampFlags := ⟨false, false, false, false, false, false, false, false⟩

/-- R172, R190, R147; the last requester granted and the group lock by log 6, the inputs by log 7. -/
def Port.reset : Port where
  anchorRegister := 0
  runState := .halted
  faultReason := .none
  causes := .clear
  enables := .clear
  settings := none
  freshMark := false
  startStep := .idle
  startFresh := false
  anchorPieces := []
  zeroPending := false
  noticeCount := 0
  presence := .none
  rate := .base
  degraded := false
  walkerRequests := []
  cacheRequests := []
  writerRequests := []
  controlRequests := []
  lastGranted := .runControl
  groupLock := none
  reads := []
  nextRead := 0
  linkUp := true
  memoryEnable := true
  messageEnable := true
  sent := []

/-- R124; the contents by log 6. -/
def ToneBank.reset : ToneBank := ⟨.free, none, .builtIn, [], 0⟩

/-- R124. -/
def Walker.reset : Walker where
  position := none
  phase := .off
  examination := none
  readFailures := 0
  recheckTimer := none
  taken := none
  active := none
  bank0 := .reset
  bank1 := .reset
  ordersFinished := 0
  tilesPublished := 0
  toneReads := []

/-- R1, R197. -/
def Plate.reset : Plate where
  phase := .idle
  order := none
  capture := 0
  frameNumber := 0
  members := []
  tileRetakes := 0
  motionTimer := none
  retakes := 0
  frameRetakes := 0
  recheckTimer := none
  lateEvents := 0
  thickness := none
  lid := .unknown
  openedSeen := false
  plateChange := true
  panel := .unsure
  ring := .unsure
  movingMark := false
  fallbackMark := false
  plan := []
  awaiting := none
  sample := none
  frameSlot := none
  frameAccumulated := false
  frameSampled := false
  serviceSlot := 0
  slotGroupOut := false
  interrupted := none
  shutdownReported := false

/-- R147. -/
def Bus.reset : Bus where
  line := .idle
  gap := 0
  breakOff := false
  rate := .base
  trimValid := false
  degraded := false
  queue := []
  rateRequest := none
  attempt := none
  corruptRun := 0
  pendingClear := none
  clearOwn := false
  clearAtQuick := false
  presence := .none
  lineNoise := false
  start := none
  pings := []
  trimDelays := []
  trimPulseOut := false
  nextRequest := 0
  sent := []

def Slot.reset : Slot := ⟨.free, none, none⟩

/-- R58; `sends` by log 6. -/
def Intake.reset : Intake where
  nextTag := 0
  triggers := []
  fifo := []
  flow := .flowing
  ackTimer := none
  sends := 1
  slots := List.replicate Config.slotCount .reset
  reservation := none
  waitingTrigger := none
  sent := []

/-- R80; the index and generation of an EMPTY entry by log 6. -/
def CacheEntry.reset : CacheEntry := ⟨.empty, 0, 0, 0, false, none⟩

/-- R80, R81, R82; the rotation by log 6. -/
def Cache.reset : Cache where
  entries := List.replicate Config.cacheEntries .reset
  lru := (List.range Config.cacheEntries).reverse
  pinRefused := 0
  rotation := 47
  work := none
  writeBack := []

def TileStats.zero : TileStats := ⟨0, 0, 0, 0, 0, 0, 0, 0, 0⟩

/-- R29. -/
def Merge.reset : Merge := ⟨.idle, [], 0, .zero, none⟩

def PlaneRecord.clear : PlaneRecord := ⟨none, false, 0, 0, 0⟩

/-- R101, R104; the tile in writing by log 6. -/
def Writer.reset : Writer where
  queue := []
  hold := false
  params := none
  nextList := 0
  density := .clear
  positive := .clear
  mask := .clear
  tile := none
  finished := []
  commonTake := 0
  dryTimer := none
  recheckTimer := none
  phase := .idle
  rejected := 0
  task := .none
  captureEnded := false
  interrupted := none

/-- The part right after power-on reset (R172): every block at its reset values, frame memory with nothing written,
no command waiting. -/
def State.reset : State where
  port := .reset
  walker := .reset
  plate := .reset
  bus := .reset
  intake := .reset
  cache := .reset
  merge := .reset
  writer := .reset
  frame := []
  powerOns := 0
  nextOp := 0
  pending := []

end Sys2Proof.Machine
end

