-- ==== Sys2Proof/Machine/Crc.lean ====
section
/-! DEFINITION. The two check words: CRC-8 of telegrams and replies (R150), CRC-16 of ROW packets (R65). -/

namespace Sys2Proof.Machine

/-- One shift of the CRC-8 register: 0x9B is the polynomial without its x^8 term (R150). -/
def crc8Shift (r : Byte) : Byte := if r.msb then (r <<< 1) ^^^ 0x9B#8 else r <<< 1

/-- Eight shifts. -/
def crc8Shifts : Nat → Byte → Byte
  | 0, r => r
  | n + 1, r => crc8Shifts n (crc8Shift r)

/-- A byte combined into the register, then eight shifts (R150). -/
def crc8Byte (r b : Byte) : Byte := crc8Shifts 8 (r ^^^ b)

/-- The check byte over bytes in sending order (R150). -/
def crc8 (bytes : List Byte) : Byte := bytes.foldl crc8Byte 0xFF#8

/-- One shift of the CRC-16 register: x^16 + x^12 + x^5 + 1 (R65). -/
def crc16Shift (r : Word16) : Word16 := if r.msb then (r <<< 1) ^^^ 0x1021#16 else r <<< 1

/-- `n` shifts. -/
def crc16Shifts : Nat → Word16 → Word16
  | 0, r => r
  | n + 1, r => crc16Shifts n (crc16Shift r)

/-- A byte, most significant bit first (R65). -/
def crc16Byte (r : Word16) (b : Byte) : Word16 := crc16Shifts 8 (r ^^^ (b.setWidth 16 <<< 8))

/-- The check word over bytes in packet order (R65). -/
def crc16 (bytes : List Byte) : Word16 := bytes.foldl crc16Byte 0xFFFF#16

end Sys2Proof.Machine
end

