-- ==== Sys2Proof/Machine/Memory.lean ====
section
/-! DEFINITION. Frame memory: 2 GiB of bytes shared by the sixteen slots and the 48 cache entries (R66, R74, R80),
held as address and byte pairs in one canonical form. -/

namespace Sys2Proof.Machine

/-- The canonical form: addresses strictly rising. An unlisted address has no written value, so every entry differs
from it (R58, log 1). -/
abbrev Memory.wf (m : List Host.Cell) : Prop := m.Pairwise (fun a b => a.1 < b.1)

/-- Bytes laid out from an address on. -/
def cellsFrom : Nat → List Byte → List Host.Cell
  | _, [] => []
  | a, b :: rest => (a, b) :: cellsFrom (a + 1) rest

/-- Bytes written from an address on; every other byte stays. -/
def memoryWrite (base : Nat) (data : List Byte) (m : List Host.Cell) : List Host.Cell :=
  m.filter (fun c => c.1 < base) ++ cellsFrom base data ++ m.filter (fun c => base + data.length ≤ c.1)

/-- The byte written at an address, or none where nothing has been written since power-on. -/
def memoryRead : List Host.Cell → Nat → Option Byte
  | [], _ => none
  | (k, b) :: rest, a => if k = a then some b else memoryRead rest a

/-- Consecutive bytes from an address on, `undefined` standing where nothing has been written; the cells start at or
after the address. -/
def fillBytes (undefined : Nat → Byte) : Nat → Nat → List Host.Cell → List Byte
  | 0, _, _ => []
  | n + 1, a, [] => undefined a :: fillBytes undefined n (a + 1) []
  | n + 1, a, (k, b) :: rest =>
    if k = a then b :: fillBytes undefined n (a + 1) rest
    else undefined a :: fillBytes undefined n (a + 1) ((k, b) :: rest)

/-- Bytes of frame memory; a byte not written since power-on is a free value (R58, log 1). -/
def frameBytes (s : State) (base length : Nat) : List Byte :=
  fillBytes (Config.undefinedFrameByte s.powerOns) length base (s.frame.dropWhile (fun c => c.1 < base))

/-- Bytes written into frame memory. -/
def writeFrame (base : Nat) (data : List Byte) (s : State) : State :=
  { s with frame := memoryWrite base data s.frame }

/-- 16-bit little-endian values (R66, R78). -/
def values16 : List Byte → List Nat
  | a :: b :: rest => (a.toNat + 256 * b.toNat) :: values16 rest
  | _ => []

/-- 32-bit little-endian values (R92). -/
def values32 : List Byte → List Nat
  | a :: b :: c :: d :: rest =>
    (a.toNat + 256 * (b.toNat + 256 * (c.toNat + 256 * d.toNat))) :: values32 rest
  | _ => []

/-- Values as 16-bit little-endian bytes. -/
def bytes16 (values : List Nat) : List Byte := values.flatMap (leBytes 2)

/-- Values as 32-bit little-endian bytes. -/
def bytes32 (values : List Nat) : List Byte := values.flatMap (leBytes 4)

/-- Slot n lies at n × 33,554,432 (section 3.6). -/
def slotBase (slot : Nat) : Nat := slot * Config.imageBytes

/-- Entry n lies after the slots (R80). -/
def entryBase (entry : Nat) : Nat := Config.cacheBase + entry * Config.imageBytes

/-- The 4096 values of a row of the slot or entry that starts at `base` (R66, R80). -/
def rowValues (s : State) (base row : Nat) : List Nat :=
  values16 (frameBytes s (base + row * Config.rowBytes) Config.rowBytes)

/-- The slot and the byte offset in it of a row's sums: rows 0..2047 lie in the lower accumulator (R92). -/
def accumulatorRow (accumulators : Nat × Nat) (row : Nat) : Nat :=
  slotBase (if row < 2048 then accumulators.1 else accumulators.2) + (row % 2048) * 16384

/-- The 4096 sums of a row (R92). -/
def rowSums (s : State) (accumulators : Nat × Nat) (row : Nat) : List Nat :=
  values32 (frameBytes s (accumulatorRow accumulators row) 16384)

/-- One row of a frame taken into the accumulators: set for the first frame, added for a later one (R92). -/
def accumulateRow (accumulators : Nat × Nat) (slot : Nat) (first : Bool) (row : Nat) (s : State) : State :=
  let samples := rowValues s (slotBase slot) row
  let sums := if first then samples else List.zipWith (· + ·) (rowSums s accumulators row) samples
  writeFrame (accumulatorRow accumulators row) (bytes32 sums) s

/-- Rows 0 to n − 1 of a frame taken into the accumulators (R92). -/
def accumulateRows (accumulators : Nat × Nat) (slot : Nat) (first : Bool) : Nat → State → State
  | 0, s => s
  | n + 1, s => accumulateRow accumulators slot first n (accumulateRows accumulators slot first n s)

/-- The bits of packed bytes, least significant first (R66). -/
def streamBits (bytes : List Byte) : List Bool :=
  bytes.flatMap fun b => (List.range 8).map b.getLsbD

/-- The number that bits hold, least significant first. -/
def bitsNat : List Bool → Nat
  | [] => 0
  | b :: rest => b.toNat + 2 * bitsNat rest

/-- `n` samples of 14 bits each from a stream of bits (R66). -/
def unpackBits : Nat → List Bool → List Nat
  | 0, _ => []
  | n + 1, bits => bitsNat (bits.take 14) :: unpackBits n (bits.drop 14)

/-- The samples that packed bytes hold, four in every seven bytes (R66). -/
def unpackSamples (bytes : List Byte) : List Nat :=
  unpackBits (8 * bytes.length / 14) (streamBits bytes)

end Sys2Proof.Machine
end

