-- ==== Sys2Proof/Machine/Ops.lean ====
section
/-! DEFINITION. The named operations the meanings share: updates of one block, requests to the Station Memory Port,
the window, frame slots, triggers and cancels. -/

namespace Sys2Proof.Machine

/-! ## One block updated -/

def modPort (f : Port → Port) (s : State) : State := { s with port := f s.port }

def modWalker (f : Walker → Walker) (s : State) : State := { s with walker := f s.walker }

def modPlate (f : Plate → Plate) (s : State) : State := { s with plate := f s.plate }

def modBus (f : Bus → Bus) (s : State) : State := { s with bus := f s.bus }

def modIntake (f : Intake → Intake) (s : State) : State := { s with intake := f s.intake }

def modCache (f : Cache → Cache) (s : State) : State := { s with cache := f s.cache }

def modMerge (f : Merge → Merge) (s : State) : State := { s with merge := f s.merge }

def modWriter (f : Writer → Writer) (s : State) : State := { s with writer := f s.writer }

def modTaken (f : TakenOrder → TakenOrder) (s : State) : State :=
  modWalker (fun w => { w with taken := w.taken.map f }) s

def modActive (f : ActiveOrder → ActiveOrder) (s : State) : State :=
  modWalker (fun w => { w with active := w.active.map f }) s

/-- The state after an operation number has been used (log 26). -/
def useOp (s : State) : State := { s with nextOp := s.nextOp + 1 }

/-! ## Requests (R173, R175) -/

def presentWalker (rs : List Request) (s : State) : State :=
  modPort (fun p => { p with walkerRequests := p.walkerRequests ++ rs }) s

def presentCache (rs : List Request) (s : State) : State :=
  modPort (fun p => { p with cacheRequests := p.cacheRequests ++ rs }) s

def presentWriter (rs : List Request) (s : State) : State :=
  modPort (fun p => { p with writerRequests := p.writerRequests ++ rs }) s

def presentControl (rs : List Request) (s : State) : State :=
  modPort (fun p => { p with controlRequests := p.controlRequests ++ rs }) s

/-- Requests of the Order Walker that belong to an abandoned step and are not yet granted go (log 27). -/
def dropWalker (gone : Purpose → Bool) (s : State) : State :=
  modPort (fun p => { p with walkerRequests := p.walkerRequests.filter fun r => !gone r.purpose }) s

def dropCache (gone : Purpose → Bool) (s : State) : State :=
  modPort (fun p => { p with cacheRequests := p.cacheRequests.filter fun r => !gone r.purpose }) s

def dropWriter (gone : Purpose → Bool) (s : State) : State :=
  modPort (fun p => { p with writerRequests := p.writerRequests.filter fun r => !gone r.purpose }) s

def dropControl (gone : Purpose → Bool) (s : State) : State :=
  modPort (fun p => { p with controlRequests := p.controlRequests.filter fun r => !gone r.purpose }) s

def readRequest (address length : Nat) (purpose : Purpose) : Request := ⟨.read length, address, purpose, false⟩

def writeRequest (address : Nat) (data : List Byte) (purpose : Purpose) : Request :=
  ⟨.write data, address, purpose, false⟩

/-- A write of a group that has more writes after it (R173). -/
def groupedRequest (address : Nat) (data : List Byte) (purpose : Purpose) : Request :=
  ⟨.write data, address, purpose, true⟩

/-- A range split into parts of at most 512 bytes that cross no 4 KiB boundary, in rising order; one part at most for
each byte (R173, R175). -/
def splitSpan : Nat → Nat → Nat → List (Nat × Nat)
  | 0, _, _ => []
  | fuel + 1, address, length =>
    if length = 0 then []
    else
      let part := min length (min Config.requestBytes (Config.requestBoundary - address % Config.requestBoundary))
      (address, part) :: splitSpan fuel (address + part) (length - part)

/-- The reads of a range, each with the purpose of its offset (R175). -/
def readSpan (address length : Nat) (purpose : Nat → Purpose) : List Request :=
  (splitSpan length address length).map fun part => readRequest part.1 part.2 (purpose (part.1 - address))

/-- The writes of a range, each but the last with the purpose `part`, the last with `last` (R173). -/
def writeSpan (address : Nat) (data : List Byte) (part last : Purpose) : List Request :=
  (splitSpan data.length address data.length).map fun span =>
    let offset := span.1 - address
    writeRequest span.1 ((data.drop offset).take span.2) (if offset + span.2 = data.length then last else part)

/-- The part of an address range lies wholly inside the window of the settings in force (R176); with none in force no
range does (log 67). -/
def inWindow (s : State) (address length : Nat) : Bool :=
  match s.port.settings with
  | none => false
  | some w => w.windowBase ≤ address && address + length ≤ w.windowBase + w.windowSize

/-- The station address of a field of the anchor block in force (R179, log 19). A write keeps the address it was
presented with, also where it is granted after another anchor has been accepted (R180, log 72). -/
def anchorField (s : State) (offset : Nat) : Nat :=
  match s.port.settings with
  | none => offset
  | some w => w.anchor + offset

/-- A piece put in its place by offset (R175: the requester puts the data in place by position). -/
def insertPiece (p : Piece) : List Piece → List Piece
  | [] => [p]
  | q :: rest => if p.offset ≤ q.offset then p :: q :: rest else q :: insertPiece p rest

def pieceBytes (pieces : List Piece) : List Byte := pieces.flatMap Piece.data

/-! ## Frame slots (R74 to R77) -/

def slotAt (s : State) (n : Nat) : Slot := s.intake.slots.getD n .reset

def modSlot (n : Nat) (f : Slot → Slot) (s : State) : State :=
  modIntake (fun i => { i with slots := i.slots.modify n f }) s

/-- A slot taken from one of the states named to another; a slot in any other state stays (R76). FREE clears owner and
tag. -/
def moveSlot (source : List SlotState) (target : SlotState) (n : Nat) (s : State) : State :=
  modSlot n (fun slot =>
    if slot.state ∈ source then
      if target = .free then .reset else { slot with state := target, tag := none }
    else slot) s

def moveSlots (source : List SlotState) (target : SlotState) (slots : List Nat) (s : State) : State :=
  slots.foldl (fun s n => moveSlot source target n s) s

/-- The FREE slots, lowest number first (R74). -/
def freeSlots (s : State) : List Nat :=
  (List.range s.intake.slots.length).filter fun n => (slotAt s n).state = .free

/-- A cancel request for a tag: a listed entry leaves, CANCEL goes out, its FILLING slot becomes DAMAGED (R63). -/
def cancelTag (tag : Byte) (s : State) : State :=
  match s.intake.triggers.find? (fun e => e.tag = tag) with
  | none => s
  | some entry =>
    modSlot entry.slot (fun slot =>
        if slot.state = .filling && slot.tag = some tag then { slot with state := .damaged, tag := none } else slot)
      (modIntake (fun i =>
        { i with triggers := i.triggers.filter fun e => e.tag ≠ tag, sent := i.sent ++ [.cancel tag] }) s)

/-- The trigger of a FILLING slot is cancelled first (R77). -/
def cancelSlot (n : Nat) (s : State) : State :=
  match (slotAt s n).state, (slotAt s n).tag with
  | .filling, some tag => cancelTag tag s
  | _, _ => s

/-- A release by the Plate Controller (R77). -/
def releaseSlot (n : Nat) (s : State) : State :=
  moveSlot [.reserved, .filling, .full, .damaged] .free n (cancelSlot n s)

def releaseSlots (slots : List Nat) (s : State) : State := slots.foldl (fun s n => releaseSlot n s) s

/-- The final-state sweep: every slot the order still owns becomes FREE (R77). -/
def sweepSlots (order : Nat) (s : State) : State :=
  (List.range s.intake.slots.length).foldl (fun s n =>
    if (slotAt s n).owner = some order then modSlot n (fun _ => .reset) (cancelSlot n s) else s) s

/-- A reservation asked for; it is granted, or stays pending, as R74 states. -/
def askReservation (count : Nat) (s : State) : State :=
  modIntake (fun i => { i with reservation := some count }) s

def withdrawReservation (s : State) : State := modIntake (fun i => { i with reservation := none }) s

/-- A trigger request for the member record at that place (R61). -/
def askTrigger (place slot step : Nat) (s : State) : State :=
  modIntake (fun i => { i with waitingTrigger := some ⟨place, slot, step⟩ }) s

/-- The first tag at or after `t` that no entry of the list carries; five entries carry at most five tags (R61). -/
def skipTags (listed : List Byte) : Nat → Byte → Byte
  | 0, t => t
  | fuel + 1, t => if t ∈ listed then skipTags listed fuel (t + 1) else t

/-- A packet for the camera head (R59). -/
def sendBack (packet : BackPacket) (s : State) : State :=
  modIntake (fun i => { i with sent := i.sent ++ [packet] }) s

/-! ## Orders held -/

/-- The order ACTIVE, if it is of the number given. -/
def activeNumber (s : State) : Option Nat := s.walker.active.map ActiveOrder.number

/-- The tag of the ACTIVE order, or 0 with none (R190). -/
def activeTag (s : State) : Word32 :=
  match s.walker.active with
  | some a => a.tag
  | none => 0

/-- The ACTIVE order is a REFERENCE order (R127). -/
def activeReference (s : State) : Bool :=
  match s.walker.active with
  | some a => a.kind = .reference
  | none => false

end Sys2Proof.Machine
end

