-- ==== Sys2Proof/Machine/Operands.lean ====
section
/-! DEFINITION. Every operand form: the shared records' fields as the part reads them (R204), the clamps, validations
and address tests of an order (R131 to R133), the directory tests (R79, R91, R134), and the bytes of every write of
R205. -/

namespace Sys2Proof.Machine

/-! ## Fields (R204) -/

/-- A numeric field of a record: so many bytes at an offset, little-endian. -/
def fieldNat (bytes : List Byte) (offset width : Nat) : Nat := leNat ((bytes.drop offset).take width)

/-- A signed 32-bit field. -/
def fieldInt32 (bytes : List Byte) (offset : Nat) : Int := (BitVec.ofNat 32 (fieldNat bytes offset 4)).toInt

/-- A one-byte flag: set when any bit of it is non-zero. -/
def fieldFlag (bytes : List Byte) (offset : Nat) : Bool := fieldNat bytes offset 1 ≠ 0

/-- A range of station memory lies wholly inside the window from `base` of `size` bytes (R176). -/
def rangeInside (base size address length : Nat) : Bool := base ≤ address && address + length ≤ base + size

/-- A value brought into `low..high`. -/
def clampTo (low high v : Nat) : Nat := max low (min high v)

/-! ## The anchor block (10.2, R178, R179) -/

/-- 0 takes the default; any other value is clamped to its range (R179). -/
def limitOf (default low high v : Nat) : Nat := if v = 0 then default else clampTo low high v

/-- The settings of the anchor block at an address, as copied when it is accepted (R179). -/
def parseSettings (anchor : Nat) (bytes : List Byte) : Settings where
  anchor := anchor
  windowBase := fieldNat bytes 8 8
  windowSize := fieldNat bytes 16 8
  chainHead := fieldNat bytes 24 8
  poolBase := fieldNat bytes 112 8
  poolCount := fieldNat bytes 120 4
  directory := fieldNat bytes 128 8
  directoryCount := fieldNat bytes 136 4
  preferQuick := fieldNat bytes 124 4 = 1
  recheck := limitOf 20 1 1000 (fieldNat bytes 32 4)
  motion := limitOf 4000 100 60000 (fieldNat bytes 36 4)
  frame := limitOf 2000 100 10000 (fieldNat bytes 40 4)
  dry := limitOf 30000 1000 600000 (fieldNat bytes 44 4)
  exposure := (List.range 16).map fun s => clampTo 1 60000 (fieldNat bytes (48 + 4 * s) 4)

/-- The window test of R178. -/
def windowBad (w : Settings) : Bool :=
  w.windowBase % 4096 ≠ 0 || w.windowSize = 0 || 2 ^ 64 < w.windowBase + w.windowSize ||
    !rangeInside w.windowBase w.windowSize w.anchor 512

/-- The common pool test of R178. -/
def poolBad (w : Settings) : Bool :=
  w.poolCount < 16 || 4096 < w.poolCount || w.poolBase % 64 ≠ 0 ||
    !rangeInside w.windowBase w.windowSize w.poolBase (16 * w.poolCount)

/-- The directory test of R178. -/
def directoryBad (w : Settings) : Bool :=
  w.directoryCount < 1 || 256 < w.directoryCount || w.directory % 64 ≠ 0 ||
    !rangeInside w.windowBase w.windowSize w.directory (64 * w.directoryCount)

/-- The first test of R178 that fails gives the fault reason; none when every test passes. -/
def anchorTests (anchor : Nat) (bytes : List Byte) : Option FaultReason :=
  let w := parseSettings anchor bytes
  if fieldNat bytes 0 4 ≠ 1 then some .anchorLayout
  else if windowBad w then some .anchorWindow
  else if poolBad w then some .anchorPool
  else if directoryBad w then some .anchorDirectory
  else none

/-- The address test of R178: 0, or not 64-byte aligned. -/
def anchorAddressBad (anchor : Word64) : Bool := anchor = 0 || anchor.toNat % 64 ≠ 0

/-! ## The order header and its bodies (10.3) -/

/-- The kind field (R123). -/
def orderKindOf (v : Nat) : OrderKind :=
  if v = 1 then .plate else if v = 2 then .reference else if v = 3 then .service else .unknown

/-- The record length by kind; an unknown kind has none (10.3). -/
def recordLength : OrderKind → Nat
  | .plate => 192
  | .reference => 128
  | .service => 384
  | .unknown => 64

/-- A member entry, at its offset in the body. -/
def parseMember (body : List Byte) (offset : Nat) : MemberSpec :=
  ⟨fieldNat body offset 2, fieldNat body (offset + 2) 1, fieldNat body (offset + 4) 2, fieldNat body (offset + 6) 2⟩

/-- The dark-field entry, at its offset in the body. -/
def parseDarkfield (body : List Byte) (offset : Nat) : DarkfieldSpec :=
  ⟨fieldNat body offset 2, fieldNat body (offset + 2) 1, fieldNat body (offset + 4) 2, fieldNat body (offset + 6) 2⟩

/-- The member entries read: as many as the count, none for a count above 4, which validation refuses before any
entry is used (10.3). -/
def membersRead (count : Nat) : Nat := if count ≤ 4 then count else 0

/-- A PLATE body; offsets count from the body's first byte, byte 64 of the record (10.3). -/
def parsePlate (body : List Byte) : PlateBody where
  samePlate := fieldFlag body 16
  channel := fieldNat body 17 1
  memberCount := fieldNat body 18 1
  flatIndex := fieldNat body 20 2
  density := fieldNat body 22 1 % 2 = 1
  positive := fieldNat body 22 1 / 2 % 2 = 1
  mask := fieldNat body 22 1 / 4 % 2 = 1
  width := fieldNat body 23 1
  mirror := fieldFlag body 24
  tileEnd := fieldFlag body 25
  nx := fieldNat body 26 1
  ny := fieldNat body 27 1
  floor := fieldNat body 28 2
  ceiling := fieldNat body 30 2
  flatFloor := fieldNat body 32 2
  originX := fieldNat body 36 4
  originY := fieldNat body 40 4
  stepX := fieldInt32 body 44
  stepY := fieldInt32 body 48
  capacity := fieldNat body 52 4
  toneTable := fieldNat body 56 8
  descriptor := fieldNat body 64 8
  recordArea := fieldNat body 72 8
  listArea := fieldNat body 80 8
  members := (List.range (membersRead (fieldNat body 18 1))).map fun k => parseMember body (88 + 8 * k)
  darkfield := if fieldFlag body 19 then some (parseDarkfield body 120) else none

/-- A REFERENCE body (10.3). -/
def parseReference (body : List Byte) : ReferenceBody where
  kind := fieldNat body 0 1
  channel := fieldNat body 1 1
  step := fieldNat body 2 1
  frames := fieldNat body 3 1
  target := fieldNat body 4 2
  dark := fieldNat body 6 2
  level := fieldNat body 8 2
  pin := fieldFlag body 10
  dose := fieldNat body 12 2
  x := fieldNat body 16 4
  y := fieldNat body 20 4

/-- A telegram slot of a SERVICE body (10.3). -/
def parseSlot (body : List Byte) (n : Nat) : ServiceSlot :=
  let offset := 64 + 32 * n
  ⟨fieldNat body offset 1, BitVec.ofNat 8 (fieldNat body (offset + 1) 1), fieldNat body (offset + 2) 1,
    (body.drop (offset + 4)).take 8⟩

/-- A SERVICE body (10.3); slots at or beyond the clamped count are not examined (R204). -/
def parseService (body : List Byte) : ServiceBody :=
  ⟨fieldNat body 0 1, (List.range (min (fieldNat body 0 1) 8)).map (parseSlot body)⟩

/-- The body of an order of a known kind. -/
def parseBody (kind : OrderKind) (body : List Byte) : OrderBody :=
  match kind with
  | .plate => .plate (parsePlate body)
  | .reference => .reference (parseReference body)
  | .service => .service (parseService body)
  | .unknown => .service ⟨0, []⟩

/-! ## Clamps (R131) -/

/-- A lamp or ring level outside 1..1000 is set to the nearer end. -/
def clampLevel (v : Nat) : Nat := clampTo 1 1000 v

/-- LEVEL. -/
def clampMembers (members : List MemberSpec) : List MemberSpec :=
  members.map fun m => { m with level := clampLevel m.level }

/-- LEVEL and THRESHOLD of the dark-field member. -/
def clampDarkfield (d : DarkfieldSpec) : DarkfieldSpec :=
  { d with level := clampLevel d.level, threshold := max 1 d.threshold }

/-- The clamped PLATE body: FLOOR, then the ceiling, then the floor against it; FLATFLOOR; LEVEL; THRESHOLD;
MASK_DROPPED (R131). -/
def clampPlate (b : PlateBody) : PlateBody :=
  let ceiling := clampTo 2 16383 b.ceiling
  { b with
    floor := min (max 1 b.floor) (ceiling - 1)
    ceiling := ceiling
    flatFloor := max 1 b.flatFloor
    members := clampMembers b.members
    darkfield := b.darkfield.map clampDarkfield
    mask := b.mask && b.darkfield.isSome }

/-- A flag for each clamp that changes a value (R131). -/
def plateFlags (b : PlateBody) : ClampFlags where
  level := clampMembers b.members ≠ b.members || b.darkfield.any fun d => clampLevel d.level ≠ d.level
  floor := b.floor = 0
  ceiling := clampTo 2 16383 b.ceiling ≠ b.ceiling || clampTo 2 16383 b.ceiling ≤ max 1 b.floor
  flatFloor := b.flatFloor = 0
  threshold := b.darkfield.any fun d => d.threshold = 0
  average := false
  service := false
  maskDropped := b.mask && b.darkfield.isNone

/-- The clamped REFERENCE body: AVERAGE, and LEVEL for a FLAT (R131). -/
def clampReferenceBody (b : ReferenceBody) : ReferenceBody :=
  { b with frames := clampTo 1 16 b.frames, level := if b.kind = 1 then clampLevel b.level else b.level }

def referenceFlags (b : ReferenceBody) : ClampFlags :=
  { ClampFlags.none with
    level := b.kind = 1 && clampLevel b.level ≠ b.level
    average := clampTo 1 16 b.frames ≠ b.frames }

/-- The clamped body (R131). -/
def clampBody : OrderBody → OrderBody
  | .plate b => .plate (clampPlate b)
  | .reference b => .reference (clampReferenceBody b)
  | .service b => .service { b with count := min 8 b.count }

/-- The clamp flags (R131). -/
def clampFlagsOf : OrderBody → ClampFlags
  | .plate b => plateFlags b
  | .reference b => referenceFlags b
  | .service b => { ClampFlags.none with service := 8 < b.count }

/-! ## The tile plan (R12) and validation (R132) -/

/-- The column of a capture sequence number: rising in even rows, falling in odd ones (R12). -/
def sequenceColumn (nx q : Nat) : Nat :=
  let row := q / nx
  if row % 2 = 0 then q - row * nx else nx - 1 - (q - row * nx)

/-- The tile number of a capture sequence number: row × nx + column (R12). -/
def sequenceTile (nx q : Nat) : Nat := q / nx * nx + sequenceColumn nx q

/-- The capture position along one axis (R12). -/
def axisPosition (origin : Nat) (step : Int) (n : Nat) : Int := origin + n * step

/-- A tile's capture position, from its number; validation has brought it into travel (R12, R132). -/
def tilePosition (nx originX originY : Nat) (stepX stepY : Int) (tile : Nat) : Nat × Nat :=
  ((axisPosition originX stepX (tile % nx)).toNat, (axisPosition originY stepY (tile / nx)).toNat)

/-- Outside 0..400000 µm (R132). -/
def outsideTravel (p : Int) : Bool := p < 0 || Config.travel < p

/-- The grid's corners on one axis lie in travel (R132). -/
def axisBad (origin : Nat) (step : Int) (n : Nat) : Bool :=
  outsideTravel (axisPosition origin step 0) || outsideTravel (axisPosition origin step (n - 1))

/-- R132, PLATE. -/
def plateInvalid (b : PlateBody) : Bool :=
  b.memberCount = 0 || 4 < b.memberCount || b.nx = 0 || 8 < b.nx || b.ny = 0 || 8 < b.ny ||
    b.members.any (fun m => m.dose = 0 || 15 < m.step) || 3 < b.channel ||
    b.darkfield.any (fun d => 15 < d.step) || axisBad b.originX b.stepX b.nx || axisBad b.originY b.stepY b.ny ||
    b.capacity = 0 || 4096 < b.capacity || !(b.density || b.positive || b.mask)

/-- R132, REFERENCE. -/
def referenceInvalid (b : ReferenceBody) : Bool :=
  (b.kind ≠ 1 && b.kind ≠ 2) || b.dose = 0 || 15 < b.step ||
    (b.kind = 1 && (3 < b.channel || outsideTravel b.x || outsideTravel b.y))

/-- Validation refuses the order with BAD_ORDER (R132). -/
def bodyInvalid : OrderBody → Bool
  | .plate b => plateInvalid b
  | .reference b => referenceInvalid b
  | .service _ => false

/-- 64-byte aligned and wholly inside the window (R133). -/
def areaBad (s : State) (address length : Nat) : Bool := address % 64 ≠ 0 || !inWindow s address length

/-- A PLATE order's address fields fail with ADDRESS (R133). -/
def addressesBad (s : State) : OrderBody → Bool
  | .plate b =>
    areaBad s b.recordArea (128 * (b.nx * b.ny)) || areaBad s b.listArea (32 * b.capacity) ||
      (b.toneTable ≠ 0 && areaBad s b.toneTable 8192) || (b.descriptor ≠ 0 && areaBad s b.descriptor 64)
  | _ => false

/-! ## The reference directory (10.7, R78, R79, R91, R134) -/

def parseDirectory (bytes : List Byte) : DirectoryEntry where
  state := fieldNat bytes 0 2
  kind := fieldNat bytes 2 1
  channel := fieldNat bytes 3 1
  step := fieldNat bytes 6 1
  pin := fieldFlag bytes 7
  dose := fieldNat bytes 8 2
  generation := BitVec.ofNat 32 (fieldNat bytes 16 4)
  image := fieldNat bytes 24 8

/-- The image address is 4 KiB aligned and its 33,554,432 bytes lie inside the window (R79, R91). -/
def imageBad (s : State) (image : Nat) : Bool := image % 4096 ≠ 0 || !inWindow s image Config.imageBytes

/-- The entry passes what the Reference Cache and the Order Walker test for a role (R79, R91, R134). -/
def entryPasses (s : State) (index : Nat) (e : DirectoryEntry) : DirectoryTest → Bool
  | .flat channel => e.state = 1 && !imageBad s e.image && e.kind = 1 && e.dose ≠ 0 && e.channel = channel
  | .dark step => e.state = 1 && !imageBad s e.image && e.kind = 2 && e.step = step
  | .target other => !imageBad s e.image && other ≠ some index

/-- The indices an order names, each with its test, in the order of R79 and R91. -/
def directoryRoles : OrderBody → List DirectoryRole
  | .plate b =>
    ⟨b.flatIndex, .flat b.channel⟩ :: (b.members.map fun m => ⟨m.dark, .dark m.step⟩) ++
      (b.darkfield.toList.map fun d => ⟨d.dark, .dark d.step⟩)
  | .reference b =>
    if b.kind = 1 then [⟨b.dark, .dark b.step⟩, ⟨b.target, .target (some b.dark)⟩] else [⟨b.target, .target none⟩]
  | .service _ => []

/-- The distinct indices to be resolved, in the same order (R134). -/
def resolveList : OrderBody → List Nat
  | .plate b =>
    ((b.flatIndex :: b.members.map MemberSpec.dark) ++ b.darkfield.toList.map DarkfieldSpec.dark).foldl
      (fun seen i => if i ∈ seen then seen else seen ++ [i]) []
  | .reference b => if b.kind = 1 then [b.dark] else []
  | .service _ => []

/-- What the take read of an index. -/
def directoryFind (reads : List DirectoryRead) (index : Nat) : Option DirectoryEntry :=
  (reads.find? fun r => r.index = index).map DirectoryRead.entry

/-- The cache entry an order holds for an index. -/
def holdFind (holds : List CacheHold) (index : Nat) : Nat :=
  ((holds.find? fun h => h.index = index).map CacheHold.entry).getD 0

/-! ## Writes (R205) -/

/-- The code values of R191. -/
def codeValue : ResultCode → Nat
  | .none => 0
  | .badOrder => 1
  | .address => 2
  | .noReference => 3
  | .noPlate => 4
  | .platePresent => 5
  | .motionTimeout => 6
  | .motionFault => 7
  | .lampFault => 8
  | .lidOpen => 9
  | .busFailure => 10
  | .cameraTimeout => 11
  | .frameDamaged => 12
  | .outputStarved => 13
  | .resultSpace => 14
  | .memoryError => 15
  | .aborted => 16

/-- The clamp flags' bits (10.3). -/
def clampValue (f : ClampFlags) : Nat :=
  f.level.toNat + 2 * f.floor.toNat + 4 * f.ceiling.toNat + 8 * f.flatFloor.toNat + 16 * f.threshold.toNat +
    32 * f.average.toNat + 64 * f.service.toNat + 128 * f.maskDropped.toNat

/-- Header bytes 24..47 (R144). -/
def finalGroup (primary secondary : ResultCode) (flags : ClampFlags) (tiles retakes late thickness : Nat) :
    List Byte :=
  leBytes 2 (codeValue primary) ++ leBytes 2 (codeValue secondary) ++ leBytes 4 (clampValue flags) ++
    leBytes 4 tiles ++ leBytes 4 retakes ++ leBytes 4 late ++ leBytes 4 thickness

/-- The header's state values (10.3). -/
def stateTaken : Nat := 2

def stateActive : Nat := 3

def stateDone : Nat := 4

def stateFailed : Nat := 5

def stateWithdrawn : Nat := 6

/-- A SERVICE slot's bytes 12..23: outcome, reply code, reply length, reserved, reply data (R140, 10.3). -/
def slotGroup (outcome code : Nat) (data : List Byte) : List Byte :=
  leBytes 1 outcome ++ leBytes 1 code ++ leBytes 1 data.length ++ zeroBytes 1 ++ (data ++ zeroBytes 8).take 8

/-- A plane group of a tile record: first, count, last, fallback, reserved (10.4). -/
def planeGroup (p : PlaneRecord) : List Byte :=
  leBytes 2 p.first ++ leBytes 2 p.count ++ leBytes 4 p.last ++ leBytes 1 p.fallback.toNat ++ zeroBytes 3

/-- Tile record bytes 4..59 (10.4). -/
def tileFields (nx tile x y : Nat) (tag : Word32) (retakes : Nat) (density positive mask : PlaneRecord) : List Byte :=
  leBytes 1 tile ++ leBytes 1 (tile % nx) ++ leBytes 1 (tile / nx) ++ zeroBytes 1 ++ leBytes 4 x ++ leBytes 4 y ++
    leBytes 4 tag.toNat ++ leBytes 4 retakes ++ planeGroup density ++ planeGroup positive ++ planeGroup mask

/-- Tile record bytes 64..95 (10.4). -/
def statsBytes (st : TileStats) : List Byte :=
  leBytes 4 st.merged ++ leBytes 4 st.single ++ leBytes 4 st.clippedHigh ++ leBytes 4 st.clippedLow ++
    leBytes 4 st.overBright ++ leBytes 4 st.referenceDefect ++ leBytes 4 st.maskSet ++ leBytes 2 st.densityMin ++
    leBytes 2 st.densityMax

/-- The tile record's states (10.4). -/
def tilePending : Nat := 1

def tilePublished : Nat := 2

def tileFailed : Nat := 3

def tileSkipped : Nat := 4

/-- The plane byte of an extent list entry (10.5). -/
def planeCode (wide : Bool) : Plane → Nat
  | .density => 1
  | .positive => if wide then 2 else 3
  | .mask => 4

/-- An extent list entry at its take (10.5, R105). -/
def listEntry (poolEntry address size plane tile : Nat) (tag : Word32) : List Byte :=
  leBytes 8 poolEntry ++ leBytes 8 address ++ leBytes 2 size ++ leBytes 1 plane ++ leBytes 1 tile ++
    leBytes 4 tag.toNat ++ zeroBytes 8

/-- The module presence byte: bit n for address n (10.2). -/
def presenceByte (p : Presence) : Nat :=
  2 * p.transport.toNat + 4 * p.panel.toNat + 8 * p.ring.toNat + 16 * p.gauge.toNat + 32 * p.lid.toNat

def rateValue : Rate → Nat
  | .base => 0
  | .quick => 1

/-- Anchor bytes 280..282 (R205). -/
def rateGroup (p : Presence) (rate : Rate) (degraded : Bool) : List Byte :=
  leBytes 1 (presenceByte p) ++ leBytes 1 (rateValue rate) ++ leBytes 1 degraded.toNat

/-- Anchor bytes 284..299 (R190). -/
def noticeGroup (module code : Nat) (data : List Byte) (tag : Word32) : List Byte :=
  leBytes 1 module ++ leBytes 1 code ++ zeroBytes 2 ++ (data ++ zeroBytes 8).take 8 ++ leBytes 4 tag.toNat

/-- Directory entry bytes 2..31 (R97, R205). -/
def directoryGroup (w : ReferenceWork) (generation : Word32) (mean : Nat) : List Byte :=
  leBytes 1 (if w.flat then 1 else 2) ++ leBytes 1 (if w.flat then w.channel else 0) ++
    leBytes 2 (if w.flat then w.level else 0) ++ leBytes 1 w.step ++ leBytes 1 w.pin.toNat ++ leBytes 2 w.dose ++
    leBytes 1 w.frames ++ zeroBytes 1 ++ leBytes 2 (if w.flat then w.darkIndex else 0) ++ zeroBytes 2 ++
    leBytes 4 generation.toNat ++ leBytes 2 mean ++ zeroBytes 2 ++ leBytes 8 w.image

end Sys2Proof.Machine
end

