-- ==== Sys2Proof/Machine/Flags.lean ====
section
/-! DEFINITION. Causes, enables, STATUS and the interrupt (R171, R188, R189, R203), and what a register read returns. -/

namespace Sys2Proof.Machine

def causeFlag (c : CauseSet) : Cause → Bool
  | .orderEnd => c.orderEnd
  | .tileEnd => c.tileEnd
  | .notice => c.notice
  | .settled => c.settled
  | .fault => c.fault
  | .refused => c.refused

def raiseCause (cause : Cause) (c : CauseSet) : CauseSet :=
  match cause with
  | .orderEnd => { c with orderEnd := true }
  | .tileEnd => { c with tileEnd := true }
  | .notice => { c with notice := true }
  | .settled => { c with settled := true }
  | .fault => { c with fault := true }
  | .refused => { c with refused := true }

/-- Bits 13..8 of STATUS and of CAUSE_ENABLE (10.1). -/
def causesOf (value : Word32) : CauseSet where
  orderEnd := value.getLsbD 8
  tileEnd := value.getLsbD 9
  notice := value.getLsbD 10
  settled := value.getLsbD 11
  fault := value.getLsbD 12
  refused := value.getLsbD 13

def causesAnd (a b : CauseSet) : CauseSet :=
  ⟨a.orderEnd && b.orderEnd, a.tileEnd && b.tileEnd, a.notice && b.notice, a.settled && b.settled,
    a.fault && b.fault, a.refused && b.refused⟩

/-- The flags of `a` that `b` does not hold. -/
def causesMinus (a b : CauseSet) : CauseSet :=
  ⟨a.orderEnd && !b.orderEnd, a.tileEnd && !b.tileEnd, a.notice && !b.notice, a.settled && !b.settled,
    a.fault && !b.fault, a.refused && !b.refused⟩

def causesAny (a : CauseSet) : Bool :=
  a.orderEnd || a.tileEnd || a.notice || a.settled || a.fault || a.refused

/-- A cause is pending when its flag and its enable are both set (R189). -/
def pendingCauses (p : Port) : CauseSet := causesAnd p.causes p.enables

def causesPending (p : Port) : Bool := causesAny (pendingCauses p)

/-- The interrupt message is presented to the arbiter, unless the function's messages are disabled (R189, log 17). -/
def presentInterrupt (s : State) : State :=
  if s.port.messageEnable then presentControl [⟨.message, 0, .interrupt, false⟩] s else s

/-- A cause flag is set; the message goes out when the pending set was empty and no longer is (R188, R189). -/
def setCause (cause : Cause) (s : State) : State :=
  let after := modPort (fun p => { p with causes := raiseCause cause p.causes }) s
  if !causesPending s.port && causesPending after.port then presentInterrupt after else after

/-- A STATUS write: the flags written as 1 are cleared, and the message goes out again when some pending causes were
cleared and others stay (R171, R189). -/
def writeStatus (value : Word32) (s : State) : State :=
  let cleared := modPort (fun p => { p with causes := causesMinus p.causes (causesOf value) }) s
  let noise := modBus (fun b => { b with lineNoise := b.lineNoise && !value.getLsbD 16 }) cleared
  if causesAny (causesAnd (pendingCauses s.port) (causesOf value)) && causesPending noise.port then
    presentInterrupt noise
  else noise

/-- A CAUSE_ENABLE write (R171, R189). -/
def writeEnables (value : Word32) (s : State) : State :=
  let after := modPort (fun p => { p with enables := causesOf value }) s
  if !causesPending s.port && causesPending after.port then presentInterrupt after else after

/-- The run state's value (10.1). -/
def runStateValue : RunState → Nat
  | .halted => 0
  | .starting => 1
  | .running => 2
  | .draining => 3
  | .aborting => 4
  | .stopped => 5
  | .faulted => 6

/-- The fault reason's value (10.1). -/
def faultReasonValue : FaultReason → Nat
  | .none => 0
  | .anchorAddress => 1
  | .anchorRead => 2
  | .anchorLayout => 3
  | .anchorWindow => 4
  | .anchorPool => 5
  | .anchorDirectory => 6
  | .chainRead => 7
  | .writeFailed => 8

/-- The causes at bits 13..8. -/
def causeBits (c : CauseSet) : Nat :=
  256 * (c.orderEnd.toNat + 2 * c.tileEnd.toNat + 4 * c.notice.toNat + 8 * c.settled.toNat + 16 * c.fault.toNat +
    32 * c.refused.toNat)

/-- What a STATUS read returns (10.1, R171). -/
def statusWord (s : State) : Word32 :=
  BitVec.ofNat 32 (runStateValue s.port.runState + 16 * faultReasonValue s.port.faultReason +
    causeBits s.port.causes + 65536 * s.bus.lineNoise.toNat)

/-- What a read of `width` bytes at an offset returns: 0 where there is no register, or for an access of another
width (R171, R203). A read changes nothing and is no row of the table. -/
def readRegister (s : State) (offset width : Nat) : Word32 :=
  if width ≠ 4 then 0
  else if offset = 0x00 then s.port.anchorRegister.setWidth 32
  else if offset = 0x04 then (s.port.anchorRegister >>> 32).setWidth 32
  else if offset = 0x0C then statusWord s
  else if offset = 0x10 then BitVec.ofNat 32 (causeBits s.port.enables)
  else 0

end Sys2Proof.Machine
end

