-- ==== Sys2Proof/Machine/BusQueue.lean ====
section
/-! DEFINITION. Telegrams and replies as bytes, the command table, and the telegram queue (R149, R150, R154, R157,
10.10). -/

namespace Sys2Proof.Machine

/-! ## Values (10.10) -/

def commandPing : Byte := 0x01#8

def commandRate : Byte := 0x02#8

def commandGoto : Byte := 0x10#8

def commandHalt : Byte := 0x11#8

def commandWhere : Byte := 0x12#8

def commandLight : Byte := 0x20#8

def commandDark : Byte := 0x21#8

def commandRing : Byte := 0x30#8

def commandRingOff : Byte := 0x31#8

def commandGauge : Byte := 0x40#8

def commandLidstate : Byte := 0x50#8

def noticeArrived : Byte := 0x18#8

def noticeJammed : Byte := 0x19#8

def noticeHot : Byte := 0x28#8

def noticeLidOpened : Byte := 0x58#8

def noticeLidClosed : Byte := 0x59#8

/-- The reply codes' values. -/
def replyDoneNow : Nat := 1

def replyAccepted : Nat := 2

def replyRefused : Nat := 3

def replyBusy : Nat := 4

/-- The modules' addresses (07, section 7.9). -/
def addressTransport : Nat := 1

def addressPanel : Nat := 2

def addressRing : Nat := 3

def addressGauge : Nat := 4

def addressLid : Nat := 5

def addressBroadcast : Nat := 31

/-! ## Bytes -/

/-- A telegram of the part: priority and target, source 0, data length, command, data, check byte (R149). -/
def telegramBytes (priority target : Nat) (command : Byte) (data : List Byte) : List Byte :=
  let body := [BitVec.ofNat 8 (32 * priority + target), 0, BitVec.ofNat 8 data.length, command] ++ data
  body ++ [crc8 body]

/-- A reply of the part: code, length 0, check byte (R149, R160). -/
def replyBytes (code : Nat) : List Byte :=
  let body : List Byte := [BitVec.ofNat 8 code, 0]
  body ++ [crc8 body]

/-- The last byte is the check byte of the bytes before it (R150). -/
def wellChecked (bytes : List Byte) : Bool :=
  bytes.getLast? = some (crc8 bytes.dropLast)

/-- The commands of the table of section 7.9. -/
def tableCommands : List Byte :=
  [commandGoto, commandHalt, commandWhere, commandLight, commandDark, commandRing, commandRingOff, commandGauge,
    commandLidstate, commandPing, commandRate]

/-- The reply length the table gives for a command and reply code: DONE_NOW of WHERE, GAUGE, LIDSTATE and PING carries
data, every other reply none (section 7.9). -/
def replyLength (command : Byte) (code : Nat) : Nat :=
  if code ≠ replyDoneNow then 0
  else if command = commandWhere then 8
  else if command = commandGauge then 5
  else if command = commandLidstate then 1
  else if command = commandPing then 1
  else 0

/-- The code and data of a reply read whole to a telegram with that command, or none where it is badly formed
(R154). -/
def readReply (command : Byte) (bytes : List Byte) : Option (Nat × List Byte) :=
  let code := fieldNat bytes 0 1
  let length := fieldNat bytes 1 1
  if wellChecked bytes && 1 ≤ code && code ≤ 4 && length ≤ 8 && bytes.length = 3 + length &&
      (command ∉ tableCommands || length = replyLength command code) then
    some (code, (bytes.drop 2).take length)
  else none

/-! ## The queue (R157) -/

/-- A request placed behind those of its priority or a lower number (R157). -/
def queueInsert (r : BusRequest) : List BusRequest → List BusRequest
  | [] => [r]
  | q :: rest => if q.priority ≤ r.priority then q :: queueInsert r rest else r :: q :: rest

/-- A new request with its counts at 0 and no reply received (R147, R154); the outcome of its last attempt is OK until
one has been made (log 54). -/
def newRequest (number : Nat) (requester : BusRequester) (priority target : Nat) (command : Byte)
    (data : List Byte) : BusRequest :=
  ⟨number, requester, priority, target, command, data, 0, 0, 0, false, .ok, 0, []⟩

/-- The queue has a place (R157). -/
def queueHasRoom (s : State) : Bool := s.bus.queue.length < Config.busQueuePlaces

/-- A request joins the queue (R157). -/
def joinQueue (requester : BusRequester) (priority target : Nat) (command : Byte) (data : List Byte) (s : State) :
    State :=
  modBus (fun b =>
    { b with
      queue := queueInsert (newRequest b.nextRequest requester priority target command data) b.queue
      nextRequest := b.nextRequest + 1 }) s

/-- RATE(QUICK) waits ahead of the queue (R165). -/
def askRateQuick (s : State) : State :=
  modBus (fun b =>
    { b with
      rateRequest := some (newRequest b.nextRequest .rate 4 addressBroadcast commandRate [1])
      nextRequest := b.nextRequest + 1 }) s

/-- Something put on the line: its dominant bits set the gap count back to 0 (R151). -/
def putOnLine (item : LineItem) (s : State) : State :=
  modBus (fun b => { b with sent := b.sent ++ [item], gap := 0 }) s

/-- The end of a transaction or of a pulse: the line IDLE, the gap counted from 0 (R151). -/
def lineIdle (s : State) : State := modBus (fun b => { b with line := .idle, gap := 0, breakOff := false }) s

end Sys2Proof.Machine
end

