-- ==== Sys2Proof/Machine/CacheEntries.lean ====
section
/-! DEFINITION. The cache entries, their LRU list and their pins (R80 to R82, R87). -/

namespace Sys2Proof.Machine

def entryAt (s : State) (n : Nat) : CacheEntry := s.cache.entries.getD n .reset

def modEntry (n : Nat) (f : CacheEntry → CacheEntry) (s : State) : State :=
  modCache (fun c => { c with entries := c.entries.modify n f }) s

/-- The count of pinned entries (R80). -/
def pinnedCount (s : State) : Nat := (s.cache.entries.filter CacheEntry.pinned).length

/-- Moved to the head of the LRU list, if unpinned (R81). -/
def toLruHead (n : Nat) (s : State) : State :=
  if (entryAt s n).pinned then s else modCache (fun c => { c with lru := n :: c.lru.filter (· ≠ n) }) s

/-- Moved to the tail of the LRU list (R81). -/
def toLruTail (n : Nat) (s : State) : State :=
  modCache (fun c => { c with lru := c.lru.filter (· ≠ n) ++ [n] }) s

/-- The entry is pinned and leaves the LRU list (R82). -/
def pinEntry (n : Nat) (s : State) : State :=
  modCache (fun c => { c with lru := c.lru.filter (· ≠ n) }) (modEntry n (fun e => { e with pinned := true }) s)

/-- A pin refused is counted, and the new count is presented (R82). -/
def refusePin (s : State) : State :=
  let counted := modCache (fun c => { c with pinRefused := c.pinRefused + 1 }) s
  presentCache [writeRequest (anchorField s 272) (leBytes 4 counted.cache.pinRefused.toNat) .cacheWrite] counted

/-- The pin is removed and the entry placed at the head of the LRU list (R82). -/
def unpinEntry (n : Nat) (s : State) : State :=
  toLruHead n (modEntry n (fun e => { e with pinned := false }) s)

/-- A pin request applied to an entry (R82). -/
def applyPin (n : Nat) (request : Bool) (s : State) : State :=
  match request, (entryAt s n).pinned with
  | true, false => if pinnedCount s < Config.pinLimit then pinEntry n s else refusePin s
  | false, true => unpinEntry n s
  | _, _ => s

/-- The entry becomes EMPTY: its pin and holds gone, at the tail of the LRU list (R81, R82, R89, R98). -/
def emptyEntry (n : Nat) (s : State) : State :=
  toLruTail n (modEntry n (fun e => { e with state := .empty, holds := 0, pinned := false, load := none }) s)

/-- A hold released; an EMPTY entry does not change (R87, R89). -/
def releaseHold (n : Nat) (s : State) : State :=
  modEntry n (fun e => if e.state = .empty then e else { e with holds := e.holds - 1 }) s

def releaseHolds (holds : List CacheHold) (s : State) : State := holds.foldl (fun s h => releaseHold h.entry s) s

/-- The entry not EMPTY that carries an index (R83). -/
def carrying (s : State) (index : Nat) : Option Nat :=
  (List.range s.cache.entries.length).find? fun n =>
    (entryAt s n).state ≠ .empty && (entryAt s n).index = index

/-- The victim: the EMPTY entry nearest the tail, failing that the READY entry nearest the tail with no hold; a pinned
entry is not on the list (R85). -/
def victim (s : State) : Option Nat :=
  match s.cache.lru.reverse.find? fun n => (entryAt s n).state = .empty with
  | some n => some n
  | none => s.cache.lru.reverse.find? fun n => (entryAt s n).state = .ready && (entryAt s n).holds = 0

/-- An entry begins a load for one order: index and generation taken, LOADING, hold 1, to the LRU head, the pin
request applied, the load started (R84, R85, R88). -/
def beginLoad (n index : Nat) (e : DirectoryEntry) (s : State) : State :=
  let load : Load := ⟨s.nextOp, e.image, 0, 0⟩
  applyPin n e.pin (toLruHead n
    (modEntry n (fun c =>
      { c with state := .loading, index := index, generation := e.generation, holds := 1, load := some load })
      (useOp s)))

end Sys2Proof.Machine
end

