-- ==== Sys2Proof/Machine/Failure.lean ====
section
/-! DEFINITION. Recording a failure or a withdrawal of a held order, and what it does in every block in the same event
(R136, R138, R141, R193 to R197). -/

namespace Sys2Proof.Machine

/-- The capture of a PLATE or REFERENCE order is under way (R2). -/
def capturing (s : State) : Bool :=
  match s.plate.phase with
  | .interlock => true
  | .gauging => true
  | .tileBoundary => true
  | .reserving => true
  | .moving => true
  | .exposing => true
  | .collecting => true
  | _ => false

/-- The tile whose slots the Plate Controller holds without a hand-off (R118, R194). -/
def interruptedTile (s : State) : Option Nat :=
  match s.plate.order with
  | some ⟨_, _, .plate b, _, _, _, _⟩ =>
    if s.plate.members.isEmpty then none else some (sequenceTile b.nx s.plate.capture)
  | _ => none

/-- The slots of the tile or frame being captured. -/
def heldSlots (s : State) : List Nat := s.plate.members.map Member.slot ++ s.plate.frameSlot.toList

/-- The sequence, timers and samples of the capture stop; a telegram outstanding is still awaited (R197). The member
records and the frame slot go with their timers and their slots (log 61). -/
def stopCapture (s : State) : State :=
  modPlate (fun p =>
    { p with
      phase := .shutdown
      members := []
      motionTimer := none
      recheckTimer := none
      plan := []
      sample := none
      frameSlot := none
      frameAccumulated := false
      frameSampled := false
      interrupted := interruptedTile s
      shutdownReported := false })
    (modIntake (fun i => { i with waitingTrigger := none })
      (dropWalker (fun p => match p with | .cancelPlate _ => true | _ => false) s))

/-- Entry into SHUTDOWN: timers stopped, slots released or the pending reservation withdrawn (R197); the CANCELs of
several triggers go out in the order of the member records (log 41). -/
def enterShutdown (s : State) : State :=
  if s.plate.phase = .shutdown then s
  else withdrawReservation (releaseSlots (heldSlots s) (stopCapture s))

/-- The statistics of a tile that was not merged to its end are all 0 (R119). -/
def disposedMark (t : MergeTile) : TileMark := ⟨t.tile, t.x, t.y, t.retakes, .zero⟩

def tileSlots (t : MergeTile) : List Nat := t.slots ++ t.darkSlot.toList

/-- A stopping failure stops the merge: slots FREE, queue empty, one failure mark for each tile (R56); the current row
is 0 in IDLE (log 40). -/
def mergeDispose (s : State) : State :=
  modWriter (fun w => { w with queue := w.queue ++ s.merge.queue.map fun t => .failureMark (disposedMark t) })
    (modMerge (fun m => { m with phase := .idle, queue := [], row := 0, stats := .zero })
      (moveSlots [.merging, .full] .free (s.merge.queue.flatMap tileSlots) s))

/-- The take under way has had its first write accepted (R105). -/
def takeListed (w : Writer) : Bool :=
  match w.task with
  | .taking _ t => t.listed
  | _ => false

/-- Writes and reads that a stopping failure abandons where they are not yet granted: row parts, scans, a descriptor
read, a publication, a take not listed (R119, log 27). -/
def discardedPurpose (listed : Bool) : Purpose → Bool
  | .descriptor _ => true
  | .poolEntry _ => true
  | .rowPart => true
  | .planeRow _ => true
  | .publicationPart => true
  | .published _ => true
  | .takeListed => !listed
  | .takeMarked => !listed
  | .takeIndexed => !listed
  | _ => false

/-- What the Tile Writer goes on with in DISCARDING: the PENDING records, and a take whose first write was
accepted. -/
def discardTask : WriterTask → WriterTask
  | .activating _ => .activating none
  | .taking planes t => if t.listed then .taking planes t else .none
  | _ => .none

/-- A stopping failure reaches the Tile Writer (R119); in FINISHING it changes nothing, and the last records go on
(R120, log 53). -/
def writerDiscard (s : State) : State :=
  if s.writer.params.isNone || s.writer.phase = .discarding || s.writer.phase = .finishing then s
  else
    modWriter (fun w =>
      { w with phase := .discarding, dryTimer := none, recheckTimer := none, task := discardTask w.task })
      (dropWriter (discardedPurpose (takeListed s.writer)) s)

def accumulatorList (a : Option (Nat × Nat)) : List Nat :=
  match a with
  | none => []
  | some (low, high) => [low, high]

/-- The Reference Cache ends its work for a REFERENCE order: accumulators given back, the install entry EMPTY, the
write-back's requests gone (log 27), and the Order Walker told (R98). A FULL frame in hand and not yet accumulated
becomes FREE with the accumulators, which no rule times (R76, R77, R98, log 68). -/
def cacheEndWork (s : State) : State :=
  match s.cache.work with
  | none => s
  | some w =>
    let freed := moveSlots [.full] .free w.frameInHand.toList
      (moveSlots [.accumulator] .free (accumulatorList w.accumulators) s)
    let emptied := w.install.toList.foldl (fun s n => emptyEntry n s) freed
    modActive (fun a => { a with workEnded := true })
      (modCache (fun c => { c with work := none, writeBack := [] }) emptied)

/-- OUTPUT_STARVED, RESULT_SPACE, MEMORY_ERROR, ABORTED of an ACTIVE order (R191). -/
def stoppingCode : ResultCode → Bool
  | .outputStarved => true
  | .resultSpace => true
  | .memoryError => true
  | .aborted => true
  | _ => false

/-- The first code is the primary, the next the secondary; later codes are not recorded (R141, R201). -/
def recordCode (code : ResultCode) (a : ActiveOrder) : ActiveOrder :=
  if a.primary = .none then { a with primary := code }
  else if a.secondary = .none then { a with secondary := code }
  else a

/-- A failure passed on to the blocks that work for the order (R141, R194, R195). -/
def passFailure (code : ResultCode) (kind : OrderKind) (s : State) : State :=
  let shut := enterShutdown s
  let stopped := if stoppingCode code then writerDiscard (mergeDispose shut) else shut
  if kind = .reference then cacheEndWork stopped else stopped

/-- The Plate Controller's counts, handed to the Order Walker with a code, a withdrawal or the capture's end (R28, R142,
R197). -/
def handCounts (p : Plate) (a : ActiveOrder) : ActiveOrder :=
  { a with retakes := p.retakes, lateEvents := p.lateEvents, thickness := p.thickness.getD 0 }

/-- A failure of the ACTIVE order is recorded with the counts and passed on, unless its final write has begun (R28,
R141, R143). -/
def failActive (code : ResultCode) (s : State) : State :=
  match s.walker.active with
  | none => s
  | some a =>
    if a.ending then s else passFailure code a.kind (modActive (fun a => handCounts s.plate (recordCode code a)) s)

/-- A withdrawal of the ACTIVE order: the mark set with the counts, no code, handled as a capture-side failure (R196,
R197). -/
def withdrawActive (s : State) : State :=
  match s.walker.active with
  | none => s
  | some a =>
    if a.ending then s
    else
      let shut := enterShutdown (modActive (fun a => { handCounts s.plate a with withdrawn := true }) s)
      if a.kind = .reference then cacheEndWork shut else shut

/-- The two writes of a final write: the group, then the state (R144). -/
def presentFinal (address : Nat) (group : List Byte) (state : Nat) (fromTaken : Bool) (s : State) : State :=
  presentWalker [writeRequest (address + 24) group .orderWrite,
    writeRequest address (leBytes 4 state) (.finalState fromTaken)] s

/-- Requests of a TAKEN order's setup and samples. -/
def takenPurpose : Purpose → Bool
  | .orderBody _ _ => true
  | .cancelTaken _ => true
  | .cancelActivation _ => true
  | .activeState _ => true
  | _ => false

def tonePurpose (owner : Nat) (r : Request) : Bool :=
  match r.purpose with
  | .tonePiece o _ => o = owner
  | _ => false

/-- A bank's load stops: it awaits no more data (R135, R136). The bank stays LOADING until its owner's final state,
which the rules leave open (log 69). -/
def stopBank (owner : Nat) (b : ToneBank) : ToneBank :=
  if b.state = .loading && b.owner = some owner then { b with pieces := [], awaited := 0 } else b

/-- The tone load of an order stops: its reads still waiting go, and what the others return is not taken (R135,
R136). -/
def stopLoad (owner : Nat) (s : State) : State :=
  modWalker (fun w =>
    { w with
      bank0 := stopBank owner w.bank0
      bank1 := stopBank owner w.bank1
      toneReads := w.toneReads.filter fun r => !tonePurpose owner r }) s

/-- The setup step in progress is abandoned, and a tone load stops (R136). -/
def abandonSetup (o : TakenOrder) (s : State) : State :=
  stopLoad o.number
    (modTaken (fun o =>
        { o with
          reading := none
          bodyPieces := []
          bodyAwaited := 0
          roles := []
          toResolve := []
          recheckSample := none
          activationSample := none })
      (dropCache (fun p => match p with | .directoryEntry _ => true | _ => false) (dropWalker takenPurpose s)))

/-- The TAKEN order ends with a code, or none for a withdrawal: its final results and state are written at once (R136,
R138). -/
def endTaken (code : ResultCode) (state : Nat) (s : State) : State :=
  match s.walker.taken with
  | none => s
  | some o =>
    if o.ending then s
    else
      presentFinal o.address (finalGroup code .none o.clamps 0 0 0 0) state true
        (modTaken (fun o => { o with primary := code, ending := true }) (abandonSetup o s))

/-- A failure of the TAKEN order (R136). -/
def failTaken (code : ResultCode) (s : State) : State := endTaken code stateFailed s

/-- A load failed: the entry EMPTY, its holders failed MEMORY_ERROR, their holds on it gone (R89). -/
def failLoad (n : Nat) (s : State) : State :=
  let takenHolds := s.walker.taken.any fun o => o.holds.any fun h => h.entry = n
  let activeHolds := s.walker.active.any fun a => a.holds.any fun h => h.entry = n
  let emptied := modActive (fun a => { a with holds := a.holds.filter fun h => h.entry ≠ n })
    (modTaken (fun o => { o with holds := o.holds.filter fun h => h.entry ≠ n }) (emptyEntry n s))
  let active := if activeHolds then failActive .memoryError emptied else emptied
  if takenHolds then failTaken .memoryError active else active

end Sys2Proof.Machine
end

