-- ==== Sys2Proof/Machine/Stand.lean ====
section
/-! DEFINITION. What the Plate Controller makes of a telegram's outcome: the stand state (R5, R6, R9, R27, R197), the
failures (R3, R8 to R11, R16, R17, R19, R24, R199, R201), and the step that follows. -/

namespace Sys2Proof.Machine

/-- The ACTIVE order as the Plate Controller holds it is a SERVICE order. -/
def plateService (s : State) : Bool :=
  match s.plate.order with
  | some ⟨_, _, .service _, _, _, _, _⟩ => true
  | _ => false

/-- Answered DONE_NOW (R3). -/
def doneNow (outcome : BusOutcome) (code : Nat) : Bool := outcome = .ok && code = replyDoneNow

/-- Reported failed: the bus controller gave up (R3). -/
def gaveUp : BusOutcome → Bool
  | .lost => true
  | .corrupt => true
  | .noReply => true
  | .busy => true
  | _ => false

/-! ## The stand state -/

/-- The panel state after LIGHT or DARK: the new state on DONE_NOW, UNSURE when refused, failed or cleared; an
ACCEPTED leaves it (R9, log 13). -/
def panelAfter (new old : PanelState) (outcome : BusOutcome) (code : Nat) : PanelState :=
  if outcome ≠ .ok then .unsure else if code = replyDoneNow then new else old

/-- The ring state after RING or RING_OFF (R9, log 13). -/
def ringAfter (new old : RingState) (outcome : BusOutcome) (code : Nat) : RingState :=
  if outcome ≠ .ok then .unsure else if code = replyDoneNow then new else old

/-- A report of the lid open (R5, R6). -/
def lidOpen (p : Plate) : Plate := { p with lid := .opened, openedSeen := true }

/-- A report of the lid closed; with the mark set the plate-change flag is set and the mark cleared (R5, R6). -/
def lidClosed (p : Plate) : Plate :=
  { p with lid := .closed, openedSeen := false, plateChange := p.plateChange || p.openedSeen }

/-- The lid after LIDSTATE: a state byte of neither 1 nor 2 changes nothing (R5, R206). -/
def lidAfter (outcome : BusOutcome) (code : Nat) (reply : List Byte) (p : Plate) : Plate :=
  if doneNow outcome code then
    if fieldNat reply 0 1 = 1 then lidOpen p else if fieldNat reply 0 1 = 2 then lidClosed p else p
  else p

/-- The moving mark after GOTO: set by ACCEPTED (R197). -/
def movingAfterGoto (outcome : BusOutcome) (code : Nat) (p : Plate) : Plate :=
  if outcome = .ok && code = replyAccepted then { p with movingMark := true } else p

/-- The moving mark after HALT: cleared by DONE_NOW (R197). -/
def movingAfterHalt (outcome : BusOutcome) (code : Nat) (p : Plate) : Plate :=
  if doneNow outcome code then { p with movingMark := false } else p

/-- The stand state after a telegram to a module ended (R5, R6, R9, R27, R197). A SERVICE telegram with one of these
commands to any other target, the broadcast address among them, leaves it (log 38). The channel and level of one whose
slot carries too few bytes are those of the bytes it carries (log 63). -/
def standAfter (target : Nat) (command : Byte) (data : List Byte) (outcome : BusOutcome) (code : Nat)
    (reply : List Byte) (p : Plate) : Plate :=
  if target = addressPanel && command = commandLight then
    { p with panel := panelAfter (.lit (fieldNat data 0 1) (beNat ((data.drop 1).take 2))) p.panel outcome code }
  else if target = addressPanel && command = commandDark then
    { p with panel := panelAfter .dark p.panel outcome code }
  else if target = addressRing && command = commandRing then
    { p with ring := ringAfter (.lit (beNat (data.take 2))) p.ring outcome code }
  else if target = addressRing && command = commandRingOff then
    { p with ring := ringAfter .dark p.ring outcome code }
  else if target = addressLid && command = commandLidstate then lidAfter outcome code reply p
  else if target = addressTransport && command = commandGoto then movingAfterGoto outcome code p
  else if target = addressTransport && command = commandHalt then movingAfterHalt outcome code p
  else p

/-! ## The telegram of a step -/

/-- Priority, target, command and data of a step that sends one (R158, section 7.9); a SERVICE slot's are the host's. -/
def stepTelegram (s : State) : PlateStep → Option (Nat × Nat × Byte × List Byte)
  | .interlockLid => some (4, addressLid, commandLidstate, [])
  | .lidCheck => some (4, addressLid, commandLidstate, [])
  | .gauge => some (4, addressGauge, commandGauge, [])
  | .darkIfLit => some (4, addressPanel, commandDark, [])
  | .dark => some (4, addressPanel, commandDark, [])
  | .shutdownDark => some (4, addressPanel, commandDark, [])
  | .ringOffIfLit => some (4, addressRing, commandRingOff, [])
  | .ringOff => some (4, addressRing, commandRingOff, [])
  | .shutdownRingOff => some (4, addressRing, commandRingOff, [])
  | .goto x y => some (4, addressTransport, commandGoto, beBytes 4 x ++ beBytes 4 y)
  | .light channel level => some (4, addressPanel, commandLight, leBytes 1 channel ++ beBytes 2 level)
  | .ring level => some (4, addressRing, commandRing, beBytes 2 level)
  | .shutdownHalt => some (1, addressTransport, commandHalt, [])
  | .service n =>
    match s.plate.order with
    | some ⟨_, _, .service b, _, _, _, _⟩ =>
      match b.slots[n]? with
      | some slot => some (4, slot.target, slot.command, slot.data.take slot.length)
      | none => none
    | _ => none
  | _ => none

/-- The stand state after a step's telegram. -/
def standAfterStep (step : PlateStep) (outcome : BusOutcome) (code : Nat) (reply : List Byte) (s : State) : State :=
  match stepTelegram s step with
  | some (_, target, command, data) => modPlate (standAfter target command data outcome code reply) s
  | none => s

/-! ## Failures of a step -/

/-- GAUGE answered DONE_NOW reports a plate (10.10). -/
def platePresent (reply : List Byte) : Bool := fieldNat reply 0 1 ≠ 0

/-- The thickness in a GAUGE reply, most significant byte first (10.10, R206). -/
def gaugeThickness (reply : List Byte) : Nat := beNat ((reply.drop 1).take 4)

/-- The result code of GAUGE (R11). -/
def gaugeFailure (s : State) (outcome : BusOutcome) (code : Nat) (reply : List Byte) : Option ResultCode :=
  if doneNow outcome code then
    match s.plate.order with
    | some ⟨_, _, .plate _, _, _, _, _⟩ => if platePresent reply then none else some .noPlate
    | _ => if platePresent reply then some .platePresent else none
  else some .busFailure

/-- The result code of LIDSTATE; a lid check in SHUTDOWN that reports the lid open would have failed the order
(R5, R8, R197, R206). -/
def lidFailure (s : State) (step : PlateStep) (outcome : BusOutcome) (code : Nat) (reply : List Byte) :
    Option ResultCode :=
  if doneNow outcome code && (fieldNat reply 0 1 = 1 || fieldNat reply 0 1 = 2) then
    if s.plate.phase = .shutdown && step = .lidCheck && fieldNat reply 0 1 = 1 then some .lidOpen else none
  else some .busFailure

/-- The result code of a telegram the module answered or refused, by the rule that owns the telegram. -/
def answerFailure (s : State) (step : PlateStep) (outcome : BusOutcome) (code : Nat) (reply : List Byte) :
    Option ResultCode :=
  match step with
  | .interlockLid => lidFailure s step outcome code reply
  | .lidCheck => lidFailure s step outcome code reply
  | .gauge => gaugeFailure s outcome code reply
  | .goto _ _ => if outcome = .refused then some .motionFault else none
  | .shutdownHalt => if doneNow outcome code then none else some .motionFault
  | _ => if doneNow outcome code then none else some .lampFault

/-- The result code an outcome hands over: failed is BUS_FAILURE; cleared is BUS_FAILURE in the capture, and in
SHUTDOWN when the bus controller's own pulse cleared it (R3, R4, R199). -/
def stepFailure (s : State) (step : PlateStep) (outcome : BusOutcome) (code : Nat) (reply : List Byte) :
    Option ResultCode :=
  if gaveUp outcome then some .busFailure
  else if outcome = .cleared then
    if s.plate.phase = .shutdown && !s.bus.clearOwn then none else some .busFailure
  else answerFailure s step outcome code reply

/-! ## Sequences -/

/-- The darkening before a move, then GOTO (R9, R16). -/
def movePlan (x y : Nat) : List PlateStep := [.darkIfLit, .ringOffIfLit, .goto x y]

/-- The lamp step of a member and its trigger (R8, R10, R17, R18). -/
def memberPlan (b : PlateBody) (place : Nat) (m : Member) : List PlateStep :=
  match m.kind with
  | .transmitted =>
    [.lidCheck, .ringOffIfLit, .light b.channel ((b.members.map MemberSpec.level).getD m.index 0), .trigger place]
  | .darkfield =>
    [.lidCheck, .dark, .darkIfLit, .ring ((b.darkfield.map DarkfieldSpec.level).getD 0), .trigger place]

/-- The lamp step of a REFERENCE order (R24). -/
def referencePlan (b : ReferenceBody) : List PlateStep :=
  if b.kind = 1 then [.lidCheck, .ringOffIfLit, .light b.channel b.level, .referenceStart]
  else [.lidCheck, .dark, .ringOff, .referenceStart]

/-- The exposure step of a member record (R17, R25). -/
def memberStep (body : OrderBody) (m : Member) : Nat :=
  match body with
  | .plate b =>
    match m.kind with
    | .transmitted => (b.members.map MemberSpec.step).getD m.index 0
    | .darkfield => (b.darkfield.map DarkfieldSpec.step).getD 0
  | .reference b => b.step
  | .service _ => 0

def modMember (place : Nat) (f : Member → Member) (s : State) : State :=
  modPlate (fun p => { p with members := p.members.modify place f }) s

/-- The place of the first member record of a phase. -/
def memberOfPhase (phase : MemberPhase) (s : State) : Option Nat :=
  s.plate.members.findIdx? fun m => m.phase = phase

/-- The next WAITING member begins its lamp step; with none WAITING the lamp-off step follows (R17, R19). -/
def nextMember (s : State) : State :=
  match s.plate.order with
  | some ⟨_, _, .plate b, _, _, _, _⟩ =>
    match memberOfPhase .waiting s with
    | some place =>
      match s.plate.members[place]? with
      | some m =>
        modPlate (fun p => { p with plan := memberPlan b place m })
          (modMember place (fun m => { m with phase := .lighting }) s)
      | none => s
    | none => modPlate (fun p => { p with plan := [.dark, .ringOff, .lampsOff] }) s
  | _ => s

/-- The move has ended: EXPOSING, and the lamp steps begin (R16); a FLAT order's lamp step is thus made in EXPOSING
(R24, log 39). -/
def moveEnded (s : State) : State :=
  let exposing := modPlate (fun p => { p with phase := .exposing, motionTimer := none }) s
  match s.plate.order with
  | some ⟨_, _, .reference b, _, _, _, _⟩ => modPlate (fun p => { p with plan := referencePlan b }) exposing
  | _ => nextMember exposing

/-- GAUGE let the order go on (R11, R24). -/
def gaugePassed (s : State) : State :=
  match s.plate.order with
  | some ⟨_, _, .reference b, _, _, _, _⟩ =>
    modPlate (fun p => { p with phase := .moving, plan := movePlan b.x b.y }) s
  | _ => modPlate (fun p => { p with phase := .tileBoundary, capture := 0 }) s

/-- A thickness reported with a plate present is kept for the header (R11, R192, R197). -/
def keepThickness (step : PlateStep) (outcome : BusOutcome) (code : Nat) (reply : List Byte) (p : Plate) : Plate :=
  if step = .gauge && doneNow outcome code && platePresent reply then
    { p with thickness := some (gaugeThickness reply) }
  else p

/-- What follows a step whose telegram passed, in the capture. -/
def stepPassed (step : PlateStep) (code : Nat) (s : State) : State :=
  match step with
  | .gauge => gaugePassed s
  | .goto _ _ =>
    if code = replyAccepted then
      modPlate (fun p => { p with motionTimer := p.order.map PlateOrder.motion }) s
    else moveEnded s
  | _ => s

/-- A telegram of the shutdown itself (R198). -/
def shutdownStep : PlateStep → Bool
  | .shutdownHalt => true
  | .shutdownDark => true
  | .shutdownRingOff => true
  | _ => false

/-- The outcome brings the fallback into play: a shutdown telegram refused, failed, or answered other than DONE_NOW
(R199). -/
def wantsFallback (step : PlateStep) (outcome : BusOutcome) (code : Nat) : Bool :=
  shutdownStep step && outcome ≠ .cleared && !doneNow outcome code

/-! ## SERVICE slots (R26, R140) -/

/-- The outcome values of a SERVICE slot (10.3). -/
def outcomeValue : BusOutcome → Nat
  | .ok => 1
  | .refused => 2
  | .lost => 3
  | .corrupt => 4
  | .noReply => 5
  | .busy => 6
  | .cleared => 7

def outcomeNotSent : Nat := 8

/-- A slot's outcome is handed to the Order Walker, which presents its group (R26, R140). -/
def handSlot (n outcome code : Nat) (reply : List Byte) (s : State) : State :=
  match s.walker.active with
  | none => s
  | some a =>
    presentWalker [writeRequest (a.address + 128 + 32 * n + 12) (slotGroup outcome code reply) .slotGroup]
      (modActive (fun a => { a with slotGroupOut := true })
        (modPlate (fun p => { p with serviceSlot := n + 1, slotGroupOut := true }) s))

/-! ## The outcome of the Plate Controller's telegram -/

/-- The Plate Controller reads the outcome of its telegram and acts on it (R3, R197, R199). -/
def plateResult (outcome : BusOutcome) (code : Nat) (reply : List Byte) (s : State) : State :=
  match s.plate.awaiting with
  | none => s
  | some step =>
    let stood := modPlate (fun p => { p with awaiting := none }) (standAfterStep step outcome code reply s)
    match step with
    | .service n => handSlot n (outcomeValue outcome) code reply stood
    | _ =>
      let kept := modPlate (keepThickness step outcome code reply) stood
      match stepFailure s step outcome code reply with
      | some failure =>
        let failed := failActive failure kept
        if wantsFallback step outcome code then modPlate (fun p => { p with fallbackMark := true }) failed else failed
      | none => if s.plate.phase = .shutdown then kept else stepPassed step code kept

end Sys2Proof.Machine
end

