-- ==== Sys2Proof/Machine/Plate.lean ====
section
/-! DEFINITION. The Plate Controller's own transitions and the reports that reach it (chapter 1, R197 to R200). Each
`…Advance` gives the next transition that is due, or none. -/

namespace Sys2Proof.Machine

/-! ## Sending -/

/-- A telegram request of the Plate Controller; with the queue full it is reported failed with outcome LOST at once
(R157, R159). -/
def sendStep (step : PlateStep) (s : State) : State :=
  match stepTelegram s step with
  | none => s
  | some (priority, target, command, data) =>
    let waiting := modPlate (fun p => { p with awaiting := some step }) s
    if queueHasRoom s then joinQueue .plate priority target command data waiting
    else plateResult .lost 0 [] waiting

/-! ## Cancel samples (R137) -/

/-- The Plate Controller asks for a cancel sample: one read of the cancel field of the ACTIVE order (R137). -/
def askSample (use : SampleUse) (s : State) : State :=
  match s.walker.active with
  | none => s
  | some a =>
    presentWalker [readRequest (a.address + 8) 4 (.cancelPlate s.nextOp)]
      (modPlate (fun p => { p with sample := some ⟨s.nextOp, use⟩ }) (useOp s))

/-! ## Reports to the Order Walker and the Tile Writer (R142, R118) -/

/-- The capture-ended mark, the counts, and what the Tile Writer is told (R142, R118). -/
def reportCapture (interrupted : Option Nat) (s : State) : State :=
  modWriter (fun w =>
      if w.params.isSome then { w with captureEnded := true, interrupted := interrupted } else w)
    (modActive (fun a => { handCounts s.plate a with captureEnded := true }) s)

/-- CAPTURE_DONE (R23, R25); the Reference Cache sees it too (R93). -/
def captureDone (s : State) : State :=
  modCache (fun c => { c with work := c.work.map fun w => { w with captureDone := true } })
    (reportCapture none (modPlate (fun p => { p with phase := .captureDone, recheckTimer := none }) s))

/-- The end of SHUTDOWN is reported (R200). -/
def reportShutdown (s : State) : State :=
  reportCapture s.plate.interrupted (modPlate (fun p => { p with shutdownReported := true }) s)

/-- A SERVICE order's last slot handled, or its SHUTDOWN ended (R26, R143, R200). -/
def reportService (s : State) : State :=
  modActive (fun a => { a with workEnded := true })
    (reportCapture none (modPlate (fun p => { p with shutdownReported := true }) s))

/-! ## Steps -/

/-- A step that sends nothing is over and the next is taken. -/
def dropStep (s : State) : State := modPlate (fun p => { p with plan := p.plan.tail }) s

/-- The lid check: LIDSTATE while UNKNOWN, LID_OPEN when OPEN, on when CLOSED (R8). -/
def runLidCheck (s : State) : State :=
  match s.plate.lid with
  | .unknown => sendStep .lidCheck s
  | .opened => failActive .lidOpen s
  | .closed => dropStep s

/-- The trigger of a member record (R18). -/
def runTrigger (place : Nat) (s : State) : State :=
  match s.plate.order, s.plate.members[place]? with
  | some o, some m => askTrigger place m.slot (memberStep o.body m) s
  | _, _ => s

/-- The lamp step of a REFERENCE order has ended: frame 1, EXPOSING, its cancel sample (R24, R25). -/
def startFrames (s : State) : State :=
  askSample .referenceFrame
    (modPlate (fun p => { p with phase := .exposing, frameNumber := 1, frameAccumulated := true,
                                 frameSampled := false }) s)

/-- The first step of the plan is run. -/
def runStep (step : PlateStep) (s : State) : State :=
  match step with
  | .interlockLid => if s.plate.lid = .unknown then sendStep step (dropStep s) else dropStep s
  | .darkIfLit => if s.plate.panel = .dark then dropStep s else sendStep step (dropStep s)
  | .ringOffIfLit => if s.plate.ring = .dark then dropStep s else sendStep step (dropStep s)
  | .lidCheck => runLidCheck s
  | .trigger place => runTrigger place (dropStep s)
  | .lampsOff => modPlate (fun p => { p with phase := .collecting }) (dropStep s)
  | .referenceStart => startFrames (dropStep s)
  | .referenceEnd => captureDone (dropStep s)
  | _ => sendStep step (dropStep s)

/-! ## Reservations (R14, R24, R25) -/

/-- The member records of a tile, in plan order, over the granted slots (R14). -/
def tileMembers (b : PlateBody) (slots : List Nat) : List Member :=
  (List.range slots.length).map fun place =>
    let kind := if place < b.memberCount then MemberKind.transmitted else MemberKind.darkfield
    ⟨place, kind, slots.getD place 0, none, .waiting, 0, none, none⟩

/-- The slots a PLATE tile needs (R14). -/
def tileSlotCount (b : PlateBody) : Nat := b.memberCount + b.darkfield.toList.length

/-- A waiting sample's answer is no longer acted on once the wait has ended (R196). -/
def endWait (p : Plate) : Plate :=
  { p with
    recheckTimer := none
    sample := p.sample.filter fun x => x.use ≠ .wait }

/-- The reservation of a PLATE tile is granted: MOVING (R14). -/
def tileGranted (b : PlateBody) (slots : List Nat) (s : State) : State :=
  let place := tilePosition b.nx b.originX b.originY b.stepX b.stepY (sequenceTile b.nx s.plate.capture)
  modPlate (fun p =>
    { endWait p with
      phase := .moving
      members := tileMembers b slots
      tileRetakes := 0
      plan := movePlan place.1 place.2 }) s

/-- The first reservation of a REFERENCE order is granted: two accumulators and the frame slot (R24, R92). -/
def referenceGranted (b : ReferenceBody) (low high frame : Nat) (s : State) : State :=
  let taken := moveSlots [.reserved] .accumulator [low, high] s
  let cached := modCache (fun c =>
    { c with work := c.work.map fun w => { w with accumulators := some (low, high) } }) taken
  if b.kind = 1 then
    modPlate (fun p => { endWait p with phase := .gauging, frameSlot := some frame, plan := [.gauge] }) cached
  else
    modPlate (fun p => { endWait p with frameSlot := some frame, plan := referencePlan b }) cached

/-- A reservation granted to the Plate Controller (R74, R14, R24, R25). -/
def reservationGranted (slots : List Nat) (s : State) : State :=
  match s.plate.order with
  | some ⟨_, _, .plate b, _, _, _, _⟩ => tileGranted b slots s
  | some ⟨_, _, .reference b, _, _, _, _⟩ =>
    match slots with
    | [low, high, frame] => referenceGranted b low high frame s
    | frame :: _ => modPlate (fun p => { p with frameSlot := some frame }) s
    | [] => s
  | _ => s

/-! ## Frames of a REFERENCE order (R25) -/

/-- The frame is triggered into the frame slot; from RESERVING it is the next frame (R25). Its tag and its timers stand
in one member record, of index 0 and kind TRANSMITTED for FLAT and DARK alike (log 62). -/
def triggerFrame (slot step : Nat) (s : State) : State :=
  askTrigger 0 slot step
    (modPlate (fun p =>
      { endWait p with
        phase := .exposing
        frameNumber := if p.phase = .reserving then p.frameNumber + 1 else p.frameNumber
        frameRetakes := 0
        frameAccumulated := false
        frameSampled := false
        members := [⟨0, .transmitted, slot, none, .waiting, 0, none, none⟩] }) s)

/-- Accumulated, sampled and granted: the next frame begins (R25). -/
def frameAdvance (s : State) : Option State :=
  match s.plate.order, s.plate.frameSlot with
  | some ⟨_, _, .reference b, _, _, _, _⟩, some slot =>
    if s.plate.frameAccumulated && s.plate.frameSampled then some (triggerFrame slot b.step s) else none
  | _, _ => none

/-- A FULL frame is handed to the Reference Cache; before the last, the next frame's sample is asked for; after the
last, the lamps go off (R25). -/
def frameFull (b : ReferenceBody) (slot : Nat) (s : State) : State :=
  let handed := modCache (fun c => { c with work := c.work.map fun w => { w with frameInHand := some slot } })
    (modPlate (fun p => { p with members := [], frameSlot := none, frameAccumulated := false }) s)
  if s.plate.frameNumber < b.frames then
    askSample .referenceFrame
      (modPlate (fun p => { p with phase := .reserving, recheckTimer := p.order.map PlateOrder.recheck }) handed)
  else modPlate (fun p => { p with plan := [.dark, .ringOff, .referenceEnd] }) handed

/-- A DAMAGED frame is retaken at once into the same slot, or fails the order at its third damage (R25). -/
def frameDamaged (b : ReferenceBody) (slot : Nat) (s : State) : State :=
  if s.plate.frameRetakes < Config.retakeLimit then
    askTrigger 0 slot b.step
      (modMember 0 (fun m => { m with phase := .waiting, tag := none })
        (modPlate (fun p => { p with frameRetakes := p.frameRetakes + 1, retakes := p.retakes + 1 }) s))
  else failActive .frameDamaged s

/-! ## Reports of Frame Intake -/

/-- A late packet counts for the ACTIVE order (R64). -/
def latePacket (s : State) : State :=
  modPlate (fun p => { p with lateEvents := p.lateEvents + if p.order.isSome then 1 else 0 }) s

/-- A trigger was taken: the member records its tag and its exposure timer starts (R18). -/
def triggerTaken (place step : Nat) (tag : Byte) (s : State) : State :=
  match s.plate.order with
  | none => s
  | some o =>
    modMember place (fun m =>
      { m with tag := some tag, phase := .exposing, exposureTimer := some (o.exposure.getD step 0 + o.frame) }) s

/-- The member record that carries a tag. -/
def memberOfTag (tag : Byte) (s : State) : Option Nat := s.plate.members.findIdx? fun m => m.tag = some tag

/-- EXPOSED reported for a tag: STREAMING, and the tile's next step (R18, R19). -/
def plateExposed (tag : Byte) (s : State) : State :=
  match memberOfTag tag s with
  | none => s
  | some place =>
    let streaming := modMember place (fun m =>
      { m with phase := .streaming, exposureTimer := none, frameTimer := s.plate.order.map PlateOrder.frame }) s
    nextMember streaming

/-- The end of a member's frame, FULL: the record's tag is cleared with it (R20, R25, log 57). -/
def memberFull (place : Nat) (s : State) : State :=
  let ended := modMember place (fun m => { m with phase := .full, frameTimer := none, tag := none }) s
  match s.plate.order, s.plate.members[place]? with
  | some ⟨_, _, .reference b, _, _, _, _⟩, some m => frameFull b m.slot ended
  | _, _ => ended

/-- The end of a member's frame, DAMAGED: the record's tag is cleared with it (log 57); a third damage fails the order
at once (R20, R21, R25). -/
def memberDamaged (place : Nat) (s : State) : State :=
  let ended := modMember place (fun m => { m with phase := .damaged, frameTimer := none, tag := none }) s
  match s.plate.order, s.plate.members[place]? with
  | some ⟨_, _, .reference b, _, _, _, _⟩, some m => frameDamaged b m.slot ended
  | _, some m => if m.retakes < Config.retakeLimit then ended else failActive .frameDamaged ended
  | _, none => ended

/-- Frame Intake reports the end of a frame (R20, R68). -/
def plateFrameEnd (tag : Byte) (full : Bool) (s : State) : State :=
  match memberOfTag tag s with
  | none => s
  | some place => if full then memberFull place s else memberDamaged place s

/-! ## Collecting: hand-off or retake round (R21, R22) -/

/-- A member's frame has ended. -/
def memberEnded (m : Member) : Bool := m.phase = .full || m.phase = .damaged

/-- The damaged members are set back to WAITING, each with its counts (R21). -/
def retakeMembers (members : List Member) : List Member :=
  members.map fun m =>
    if m.phase = .damaged then { m with phase := .waiting, retakes := m.retakes + 1 } else m

/-- A retake round begins (R21). -/
def retakeRound (s : State) : State :=
  let damaged := (s.plate.members.filter fun m => m.phase = .damaged).length
  nextMember (modPlate (fun p =>
    { p with
      phase := .exposing
      members := retakeMembers p.members
      tileRetakes := p.tileRetakes + damaged
      retakes := p.retakes + damaged }) s)

/-- The captured tile as it joins the merge tile queue (R22, R29). -/
def capturedTile (b : PlateBody) (p : Plate) : MergeTile :=
  let tile := sequenceTile b.nx p.capture
  let place := tilePosition b.nx b.originX b.originY b.stepX b.stepY tile
  ⟨tile, place.1, place.2, p.tileRetakes, (p.members.filter fun m => m.kind = .transmitted).map Member.slot,
    (p.members.find? fun m => m.kind = .darkfield).map Member.slot⟩

/-- The tile is CAPTURED and joins the merge tile queue (R22, R31). The tile's retake count goes back to 0 here already
(log 58). -/
def handOff (b : PlateBody) (s : State) : State :=
  modPlate (fun p => { p with members := [], capture := p.capture + 1, phase := .tileBoundary, tileRetakes := 0 })
    (modMerge (fun m =>
      { m with
        queue := m.queue ++ [capturedTile b s.plate]
        phase := if m.queue.isEmpty then .waiting else m.phase }) s)

def collectAdvance (s : State) : Option State :=
  match s.plate.order with
  | some ⟨_, _, .plate b, _, _, _, _⟩ =>
    if s.plate.members.all memberEnded then
      if s.plate.members.all fun m => m.phase = .full then some (handOff b s) else some (retakeRound s)
    else none
  | _ => none

/-! ## Waits -/

/-- The interlock wait ends once the flag is set and the lid is CLOSED (R7). -/
def interlockAdvance (s : State) : Option State :=
  if s.plate.plateChange && s.plate.lid = .closed then
    some (modPlate (fun p => { endWait p with plateChange := false, phase := .gauging, plan := [.gauge] }) s)
  else none

/-- A PLATE tile's reservation is asked once the merge tile queue holds at most 2 tiles (R14). -/
def reservingAdvance (s : State) : Option State :=
  match s.plate.order with
  | some ⟨_, _, .plate b, _, _, _, _⟩ =>
    if s.intake.reservation.isNone && s.merge.queue.length ≤ Config.mergeQueueRoom then
      some (askReservation (tileSlotCount b) s)
    else none
  | _ => frameAdvance s

/-! ## The shutdown (R198 to R200) -/

/-- Both marks are clear and both lamps DARK (R200). -/
def standQuiet (p : Plate) : Bool := !p.movingMark && !p.fallbackMark && p.panel = .dark && p.ring = .dark

/-- The shutdown's telegram whose condition holds first (R198). -/
def shutdownTelegram (p : Plate) : PlateStep :=
  if p.movingMark then .shutdownHalt else if p.panel ≠ .dark then .shutdownDark else .shutdownRingOff

/-- With no request outstanding, the report of the shutdown's end as soon as the stand is quiet, else its next telegram,
which is not sent while a clear pulse is made or awaited (R198 to R200, log 11). -/
def shutdownAdvance (s : State) : Option State :=
  if s.plate.shutdownReported then none
  else if plateService s then some (reportService s)
  else if standQuiet s.plate then some (reportShutdown s)
  else if s.plate.fallbackMark || s.bus.line = .clearing then none
  else some (sendStep (shutdownTelegram s.plate) s)

/-! ## SERVICE orders (R26) -/

/-- The slot cannot be sent: target 0 or above 31, or a data length above 8 (R26). -/
def slotUnsendable (slot : ServiceSlot) : Bool := slot.target = 0 || 31 < slot.target || 8 < slot.length

/-- The sample before a slot answered "go on" (R26). -/
def slotSampled (s : State) : State :=
  match s.plate.order with
  | some ⟨_, _, .service b, _, _, _, _⟩ =>
    match b.slots[s.plate.serviceSlot]? with
    | some slot =>
      if slotUnsendable slot then handSlot s.plate.serviceSlot outcomeNotSent 0 [] s
      else modPlate (fun p => { p with plan := [.service p.serviceSlot] }) s
    | none => s
  | _ => s

/-- The next slot's sample, its telegram, or the report of the last slot handled (R26, R140); the sample before a slot
is asked for once the group of the slot before it has been accepted (log 52). -/
def sendingAdvance (s : State) : Option State :=
  if s.plate.slotGroupOut || s.plate.sample.isSome || s.plate.shutdownReported then none
  else
    match s.plate.plan, s.plate.order with
    | step :: _, _ => some (runStep step s)
    | [], some ⟨_, _, .service b, _, _, _, _⟩ =>
      if s.plate.serviceSlot < b.count then some (askSample .serviceSlot s) else some (reportService s)
    | [], _ => none

/-! ## The answer to a sample -/

/-- "Go on" (R13, R14, R25, R26). -/
def sampleGoOn (use : SampleUse) (s : State) : State :=
  match use with
  | .boundary =>
    match s.plate.order with
    | some ⟨_, _, .plate b, _, _, recheck, _⟩ =>
      if s.plate.capture = b.nx * b.ny then captureDone s
      else modPlate (fun p => { p with phase := .reserving, recheckTimer := some recheck }) s
    | _ => s
  | .wait => modPlate (fun p => { p with recheckTimer := p.order.map PlateOrder.recheck }) s
  | .referenceFrame =>
    let sampled := modPlate (fun p => { p with frameSampled := true }) s
    if s.plate.frameSlot.isNone then askReservation 1 sampled else sampled
  | .serviceSlot => slotSampled s

/-- The Order Walker answers a sample; an answer no longer awaited is not acted on (R137, R196). -/
def sampleAnswered (op : Nat) (withdraw : Bool) (s : State) : State :=
  match s.plate.sample with
  | none => s
  | some sample =>
    if sample.op ≠ op then s
    else
      let answered := modPlate (fun p => { p with sample := none }) s
      if withdraw then withdrawActive answered else sampleGoOn sample.use answered

/-! ## The next transition -/

def plateAdvance (s : State) : Option State :=
  if s.plate.order.isNone || s.plate.awaiting.isSome then none
  else
    match s.plate.phase with
    | .shutdown => shutdownAdvance s
    | .sending => sendingAdvance s
    | .captureDone => none
    | .idle => none
    | phase =>
      match s.plate.plan with
      | step :: _ => some (runStep step s)
      | [] =>
        match phase with
        | .interlock => interlockAdvance s
        | .tileBoundary => if s.plate.sample.isNone then some (askSample .boundary s) else none
        | .reserving => reservingAdvance s
        | .exposing => frameAdvance s
        | .collecting => collectAdvance s
        | _ => none

/-! ## Activation and the end of the order (R2) -/

/-- The first phase and its sequence (R2). -/
def firstPhase (body : OrderBody) (recheck : Nat) (p : Plate) : Plate :=
  match body with
  | .plate b =>
    if b.samePlate then { p with phase := .gauging, plan := [.gauge] }
    else { p with phase := .interlock, plan := [.interlockLid], recheckTimer := some recheck }
  | .reference _ => { p with phase := .reserving, recheckTimer := some recheck }
  | .service _ => { p with phase := .sending }

/-- The order context as an activation leaves it; the stand state stays (R1, R2, R197). -/
def freshContext (order : Option PlateOrder) (p : Plate) : Plate :=
  { Plate.reset with
    order := order
    lid := p.lid
    openedSeen := p.openedSeen
    plateChange := p.plateChange
    panel := p.panel
    ring := p.ring }

/-- The Plate Controller accepts an activation (R2, R24). -/
def plateActivate (o : PlateOrder) (s : State) : State :=
  let accepted := modPlate (fun p => firstPhase o.body o.recheck (freshContext (some o) p)) s
  match o.body with
  | .reference _ => askReservation 3 accepted
  | _ => accepted

/-- The final state is written: IDLE, the order context discarded (R2). A moving mark that a SERVICE order's GOTO left set
goes with it, and the fallback mark likewise: the model's choice, since R197 names no such event (log 76). -/
def plateIdle (s : State) : State := modPlate (freshContext none) s

end Sys2Proof.Machine
end

