-- ==== Sys2Proof/Machine/BusControl.lean ====
section
/-! DEFINITION. The Station Bus Controller's own transitions: outcomes of attempts (R155, R156), the roll call (R168),
the trim (R166), RATE(QUICK) (R165), the clear pulse (R163, R164), and its hand-overs to run control (R167, R169). -/

namespace Sys2Proof.Machine

/-! ## Hand-overs to run control (R167, R168) -/

/-- Presence, rate and flag as one group (R205). -/
def rateRequestGroup (s : State) (purpose : Purpose) : Request :=
  writeRequest (anchorField s 280) (rateGroup s.port.presence s.port.rate s.port.degraded) purpose

/-- Changes of the rate are written each time, where anchor settings give the place (R167, R180). -/
def reportsRate (p : Port) : Bool := p.settings.isSome

/-- The rate in use and the rate-degraded flag are handed over when either has changed (R167). -/
def handRate (s : State) : State :=
  if s.port.rate = s.bus.rate && s.port.degraded = s.bus.degraded then s
  else
    let handed := modPort (fun p => { p with rate := s.bus.rate, degraded := s.bus.degraded }) s
    if reportsRate s.port then presentControl [rateRequestGroup handed .rateReport] handed else handed

/-- The Station Bus Controller reports its part of STARTING done; run control writes presence, rate and flag (R169,
R182, R183). -/
def busPartDone (s : State) : State :=
  let handed := modPort (fun p =>
    { p with presence := s.bus.presence, rate := s.bus.rate, degraded := s.bus.degraded, startStep := .reporting })
    (modBus (fun b => { b with start := none }) s)
  presentControl [rateRequestGroup handed .startReport] handed

/-! ## The roll call (R168) and what follows it (R169) -/

def pingAddresses : List Nat := [1, 2, 3, 4, 5]

def setPresence (address : Nat) (present : Bool) (p : Presence) : Presence :=
  if address = addressTransport then { p with transport := present }
  else if address = addressPanel then { p with panel := present }
  else if address = addressRing then { p with ring := present }
  else if address = addressGauge then { p with gauge := present }
  else if address = addressLid then { p with lid := present }
  else p

/-- All PINGs reported: from STOPPED, or with preference BASE, the part is done; else the trim follows (R169). -/
def rollCallDone (s : State) : State :=
  let handed := modPort (fun p => { p with presence := s.bus.presence }) s
  if s.port.startFresh && s.port.settings.any Settings.preferQuick then
    modBus (fun b => { b with start := some .trim, trimDelays := [] }) handed
  else busPartDone handed

/-- A PING's result: present on DONE_NOW with the address's own module kind (R168). -/
def pingResult (address : Nat) (outcome : BusOutcome) (code : Nat) (reply : List Byte) (s : State) : State :=
  if address ∈ s.bus.pings then
    let present := doneNow outcome code && fieldNat reply 0 1 = address
    let answered := modBus (fun b =>
      { b with presence := setPresence address present b.presence, pings := b.pings.filter (· ≠ address) }) s
    if answered.bus.pings.isEmpty && answered.bus.start = some .rollCall then rollCallDone answered else answered
  else s

/-- A PING joins the queue; with the queue full it is reported failed with outcome LOST at once (R157, R168). -/
def sendPing (address : Nat) (s : State) : State :=
  if queueHasRoom s then joinQueue (.rollCall address) 4 address commandPing [] s
  else pingResult address .lost 0 [] s

/-- The five PINGs are requested, in rising address order (R168). -/
def beginRollCall (s : State) : State :=
  pingAddresses.foldl (fun s a => sendPing a s)
    (modBus (fun b => { b with start := some .rollCall, pings := pingAddresses }) s)

/-! ## The trim and RATE(QUICK) (R165, R166) -/

/-- The trim has failed: INVALID, the rate-degraded flag set (R165, R166, R167). -/
def degrade (s : State) : State := modBus (fun b => { b with trimValid := false, degraded := true }) s

/-- In the rate step of STARTING the part is done (R169). -/
def endRateStep (s : State) : State := if s.bus.start = some .rate then busPartDone s else handRate s

/-- RATE(QUICK) sent whole: QUICK from the next start mark (R165). -/
def rateSent (s : State) : State := endRateStep (modBus (fun b => { b with rate := .quick }) s)

/-- RATE(QUICK) ended failed, or was cleared by the bus controller's own pulse (R165). -/
def rateFailed (s : State) : State := endRateStep (degrade s)

/-- The result of RATE(QUICK). -/
def rateResult (outcome : BusOutcome) (s : State) : State :=
  match outcome with
  | .ok => rateSent s
  | .cleared => if s.bus.clearOwn then rateFailed s else s
  | _ => rateFailed s

/-- Eight delays measured: VALID with the largest at most 250 ns, and RATE(QUICK) follows; else INVALID (R166,
R169). -/
def decideTrim (s : State) : State :=
  if s.bus.trimDelays.all fun d => d ≤ Config.trimDelayLimit then
    askRateQuick (modBus (fun b => { b with trimValid := true, start := some .rate }) s)
  else busPartDone (degrade s)

/-- A trim pulse's release delay; the gap is counted anew (R166). -/
def trimMeasured (delay : Nat) (s : State) : State :=
  let measured := modBus (fun b =>
    { b with trimPulseOut := false, trimDelays := b.trimDelays ++ [delay], gap := 0 }) s
  if measured.bus.trimDelays.length = Config.trimPulses then decideTrim measured else measured

/-! ## Reports (R159) -/

/-- A final outcome reported to its requester (R159). The reply that was received goes with a refused or a cleared outcome
too, since a SERVICE slot records it (R26, R140, log 75). Only the part's own RATE(QUICK) changes its rate: a broadcast RATE
of a SERVICE slot leaves it (log 45). -/
def reportResult (r : BusRequest) (outcome : BusOutcome) (code : Nat) (reply : List Byte) (s : State) : State :=
  match r.requester with
  | .plate => plateResult outcome code reply s
  | .rollCall address => pingResult address outcome code reply s
  | .rate => rateResult outcome s

/-! ## The clear pulse (R163, R164) -/

/-- The line taken for a pulse, and the bus controller's own state at its beginning (R163, R164). -/
def takeLine (requester : ClearRequester) (s : State) : State :=
  putOnLine .clearPulse (modBus (fun b =>
    { b with
      line := .clearing
      breakOff := false
      trimPulseOut := false
      attempt := none
      corruptRun := 0
      rate := .base
      queue := []
      rateRequest := none
      pendingClear := some [requester]
      clearOwn := requester = .busController
      clearAtQuick := b.rate = .quick }) s)

/-- Requests end CLEARED and are reported in their order, each with the reply it had drawn, if any (R164, R140; R159 has
nothing more in such a report, log 75). -/
def reportCleared (requests : List BusRequest) (s : State) : State :=
  requests.foldl (fun s r => reportResult r .cleared r.replyCode r.replyData s) s

/-- A clear pulse is requested: one under way serves the request, else the pulse begins and ends every request, RATE(QUICK)
and then the queue in its order (R163, R164). -/
def beginClear (requester : ClearRequester) (s : State) : State :=
  match s.bus.pendingClear with
  | some requesters => modBus (fun b => { b with pendingClear := some (requesters ++ [requester]) }) s
  | none => handRate (reportCleared (s.bus.rateRequest.toList ++ s.bus.queue) (takeLine requester s))

/-- A PING of the roll call. -/
def isPing (r : BusRequest) : Bool :=
  match r.requester with
  | .rollCall _ => true
  | _ => false

/-- Run control asks for a pulse with the roll call abandoned: its PINGs end CLEARED in it, be it a pulse under way that
they joined the queue in (R184, R187; R164 sends such requests after the pulse, log 74); the queue is then empty at the
next STARTING (R169). -/
def clearAbandoned (s : State) : State :=
  let asked := beginClear .runControl s
  reportCleared (asked.bus.queue.filter isPing)
    (modBus (fun b => { b with queue := b.queue.filter fun r => !isPing r }) asked)

/-- What a pulse's report does in the Plate Controller: lid UNKNOWN, lamps DARK, both marks clear; an order in its
capture fails; in SHUTDOWN only the bus controller's own pulse is a further failure (R4, R197, R199, log 12), be it one
that began in the capture and failed the order there by the telegram it cleared (log 56); one that ends after the report
of the shutdown's end is none (log 55). -/
def plateCleared (own : Bool) (s : State) : State :=
  let cleared := modPlate (fun p =>
    { p with lid := .unknown, panel := .dark, ring := .dark, movingMark := false, fallbackMark := false }) s
  if capturing s then failActive .busFailure cleared
  else if own && s.plate.phase = .shutdown && !plateService s && !s.plate.shutdownReported then
    failActive .busFailure cleared
  else cleared

/-- The pulse made: the line released; an own pulse begun at QUICK degrades the rate (R163, R167, log 16). -/
def releaseLine (s : State) : State :=
  let idle := lineIdle s
  if s.bus.clearOwn && s.bus.clearAtQuick then degrade idle else idle

/-- The pulse of STARTING from HALTED has been made: trim INVALID, flag clear, then the roll call (R169). -/
def startAfterPulse (s : State) : State :=
  beginRollCall (modBus (fun b => { b with trimValid := false, degraded := false }) s)

/-- RATE(QUICK) follows a pulse while the trim is VALID (R164, R165). -/
def rateAfterPulse (s : State) : State := if s.bus.trimValid then askRateQuick s else s

/-- ABORTING's pulse has been made: STOPPED and SETTLED (R184, R186). -/
def settleAborting (s : State) : State :=
  if s.port.runState = .aborting && s.port.startStep = .pulsing then
    setCause .settled (modPort (fun p => { p with runState := .stopped, startStep := .idle }) s)
  else s

/-- The end of a clear pulse: reported to the Plate Controller, then to every requester (R163, R164). -/
def endClear (s : State) : State :=
  let reported := plateCleared s.bus.clearOwn (releaseLine s)
  let done := modBus (fun b => { b with pendingClear := none, clearOwn := false, clearAtQuick := false }) reported
  let rated := rateAfterPulse (if s.bus.start = some .pulse then startAfterPulse done else done)
  let requesters := s.bus.pendingClear.getD []
  let settled := if .runControl ∈ requesters then settleAborting rated else rated
  handRate settled

/-- The shutdown's fallback asks for a clear pulse (R199). -/
def fallbackAdvance (s : State) : Option State :=
  if s.plate.fallbackMark && .plate ∉ s.bus.pendingClear.getD [] then some (beginClear .plate s) else none

/-! ## Attempts (R155, R156) -/

/-- The request of a number: RATE(QUICK), or one in the queue. -/
def findRequest (number : Nat) (b : Bus) : Option BusRequest :=
  (b.rateRequest.toList ++ b.queue).find? fun r => r.number = number

/-- A final request leaves (R157). -/
def removeRequest (number : Nat) (b : Bus) : Bus :=
  { b with
    rateRequest := b.rateRequest.filter fun r => r.number ≠ number
    queue := b.queue.filter fun r => r.number ≠ number }

def modRequest (number : Nat) (f : BusRequest → BusRequest) (b : Bus) : Bus :=
  let change := fun (r : BusRequest) => if r.number = number then f r else r
  { b with rateRequest := b.rateRequest.map change, queue := b.queue.map change }

/-- The counts after an attempt (R155). -/
def countOutcome (outcome : BusOutcome) (r : BusRequest) : BusRequest :=
  match outcome with
  | .lost => { r with lost := r.lost + 1, lastOutcome := outcome }
  | .corrupt => { r with spoiled := r.spoiled + 1, lastOutcome := outcome }
  | .noReply => { r with spoiled := r.spoiled + 1, lastOutcome := outcome }
  | .busy =>
    if r.busy < Config.busyLimit then { r with busy := r.busy + 1, resting := true, lastOutcome := outcome }
    else { r with lastOutcome := outcome }
  | _ => { r with lastOutcome := outcome }

/-- The code and data of a well-checked reply are kept with the request (R154). -/
def keepReply (code : Nat) (reply : List Byte) (r : BusRequest) : BusRequest :=
  if code = 0 then r else { r with replyCode := code, replyData := reply }

/-- The outcome makes the request final; `r` is the request before the attempt was counted (R155). -/
def outcomeFinal (outcome : BusOutcome) (r : BusRequest) : Bool :=
  match outcome with
  | .lost => Config.lostLimit ≤ r.lost + 1
  | .corrupt => Config.spoiledLimit ≤ r.spoiled + 1
  | .noReply => Config.spoiledLimit ≤ r.spoiled + 1
  | .busy => Config.busyLimit ≤ r.busy
  | _ => true

/-- The consecutive-corrupt count after an attempt (R156). -/
def corruptAfter (outcome : BusOutcome) (run : Nat) : Nat :=
  match outcome with
  | .corrupt => run + 1
  | .lost => run
  | .cleared => run
  | _ => 0

/-- The third corrupt attempt in a row (R156). -/
def corruptRunFull (outcome : BusOutcome) (run : Nat) : Bool :=
  outcome = .corrupt && Config.corruptLimit ≤ run + 1

/-- An attempt of the request of that number has ended: the third corrupt attempt in a row brings the bus controller's
own clear pulse, else the outcome updates the request (R155, R156). -/
def attemptEnds (number : Nat) (outcome : BusOutcome) (code : Nat) (reply : List Byte) (s : State) : State :=
  let ended := modBus (fun b =>
    { b with attempt := none, corruptRun := corruptAfter outcome b.corruptRun }) s
  if corruptRunFull outcome s.bus.corruptRun then beginClear .busController ended
  else
    match findRequest number s.bus with
    | none => ended
    | some r =>
      if outcomeFinal outcome r then
        reportResult (countOutcome outcome r) outcome code reply (modBus (removeRequest number) ended)
      else modBus (modRequest number fun r => keepReply code reply (countOutcome outcome r)) ended

/-! ## The next attempt (R151, R157) -/

/-- The request an attempt would begin for: RATE(QUICK) first, then the first in order that does not rest. -/
def readyRequest (b : Bus) : Option BusRequest :=
  match b.rateRequest with
  | some r => some r
  | none => b.queue.find? fun r => !r.resting

/-- The line lets the part begin (R151). -/
def lineFree (b : Bus) : Bool := b.line = .idle && b.gap = Config.gapBits && !b.breakOff

/-- An attempt begins: its start mark (R151, R157). -/
def beginAttempt (r : BusRequest) (s : State) : State :=
  putOnLine (.telegram (telegramBytes r.priority r.target r.command r.data))
    (modBus (fun b => { b with line := .sending, attempt := some r.number }) s)

/-- A trim pulse is made on the IDLE line after the gap (R166). -/
def trimDue (b : Bus) : Bool := b.start = some .trim && !b.trimPulseOut && b.trimDelays.length < Config.trimPulses

def busAdvance (s : State) : Option State :=
  if lineFree s.bus && !s.bus.trimPulseOut then
    match readyRequest s.bus with
    | some r => some (beginAttempt r s)
    | none =>
      if trimDue s.bus then some (putOnLine .trimPulse (modBus (fun b => { b with trimPulseOut := true }) s)) else none
  else none

/-! ## Transactions of other stations (R160, R161) -/

/-- The line can carry another station's telegram: IDLE, or RECEIVING one (R148, R151). -/
def canReceive (b : Bus) : Bool := b.line = .idle || (b.line = .receiving && b.attempt.isNone)

/-- A well-checked telegram of another station clears the consecutive-corrupt count (R156). -/
def wellReceived (s : State) : State := modBus (fun b => { b with corruptRun := 0, breakOff := false }) s

/-- The part replies in the reply slot (R160). -/
def replyOnLine (code : Nat) (s : State) : State :=
  putOnLine (.reply (replyBytes code)) (modBus (fun b => { b with line := .replying }) s)

/-- A notice received whole is answered ACCEPTED (R160). -/
def acceptNotice (s : State) : State := replyOnLine replyAccepted (wellReceived s)

/-- An attention notice reaches run control: counted, and its group and count presented as one group (R190). In a START
from STOPPED the settings held record it in their own anchor block until the new anchor is accepted (log 70). -/
def recordNotice (module : Nat) (notice : Byte) (data : List Byte) (s : State) : State :=
  if s.port.settings.isSome && !s.port.freshMark then
    let counted := modPort (fun p => { p with noticeCount := p.noticeCount + 1 }) s
    presentControl
      [groupedRequest (anchorField s 284) (noticeGroup module notice.toNat data (activeTag s)) .noticeRecord,
        writeRequest (anchorField s 276) (leBytes 4 counted.port.noticeCount.toNat) .noticeCount]
      counted
  else s

end Sys2Proof.Machine
end

