-- ==== Sys2Proof/WellFormed.lean ====
section
/-! DEFINITION. When a command's operands are what its row of the table says. The meanings are total; a command
outside these bounds is no instance of its row. -/

namespace Sys2Proof

/-- The number of commands a CONTROL value names, RESET left out (10.1). -/
def namedCommands (value : Word32) : Nat :=
  (value.getLsbD 0).toNat + (value.getLsbD 1).toNat + (value.getLsbD 2).toNat

/-- Two or more commands without RESET (R171). -/
def namesSeveral (value : Word32) : Bool :=
  2 ≤ namedCommands value && !value.getLsbD 3

/-- A 32-bit access at one of the six registers' offsets (10.1, R203). -/
def isRegisterAccess (offset width : Nat) : Bool :=
  width = 4 && offset % 4 = 0 && offset ≤ 0x14

/-- A write that R203 gives no effect: no 32-bit access to a register, or a CONTROL write naming no command. -/
def writesNothing (offset width : Nat) (value : Word64) : Bool :=
  !isRegisterAccess offset width ||
    (offset = 0x08 && namedCommands (value.setWidth 32) = 0 && !value.getLsbD 3)

/-- A reply read whole holds its code, its length byte, its data and its check byte (R149). -/
def replyWhole (bytes : List Byte) : Bool := 3 ≤ bytes.length

/-- A telegram read whole holds bytes 0 to 3 and a check byte (R149); one that has only begun holds none (log 50). -/
def telegramWhole (bytes : List Byte) : Bool := bytes.isEmpty || 5 ≤ bytes.length

/-- The fields of a ROW packet are filled in turn: one begins only where the one before it is whole (10.11). -/
def rowPacketForm (tag row samples check : List Byte) : Bool :=
  tag.length ≤ 1 && row.length ≤ 2 && samples.length ≤ Config.packedRowBytes &&
    (row.isEmpty || tag.length = 1) && (samples.isEmpty || row.length = 2) &&
    (check.isEmpty || samples.length = Config.packedRowBytes)

/-- Type bytes of the forward packets (10.11). -/
def knownPacketType (b : Byte) : Bool := b = 1 || b = 2 || b = 3 || b = 4

/-- An unknown type, or an EXPOSED, FRAME_END or ACK of wrong length (R206). -/
def unknownPacketForm : List Byte → Bool
  | [] => true
  | b :: rest =>
    if b = 1 then rest.length ≠ 1
    else if b = 3 then rest.length ≠ 3
    else if b = 4 then rest.length ≠ 1
    else !knownPacketType b

/-- The operands are as the command's row says. -/
def Instr.wellFormed : Instr → Bool
  | .controlSeveralCommands value => namesSeveral value
  | .otherRegisterWrite offset width value => writesNothing offset width value
  | .readCompletion _ data => data.length ≤ Config.requestBytes
  | .replyReceived bytes => replyWhole bytes
  | .telegramReceived bytes => telegramWhole bytes
  | .trimPulseMeasured delay => delay % 10 = 0
  | .exposureTimerExpiry member => member < 5
  | .frameTimerExpiry member => member < 5
  | .rowPacket tag row samples check => rowPacketForm tag row samples check
  | .unknownPacket bytes => unknownPacketForm bytes
  | .start => true
  | .stop => true
  | .abort => true
  | .reset => true
  | .anchorRegisterWrite _ _ => true
  | .statusWrite _ => true
  | .causeEnableWrite _ => true
  | .nudge _ => true
  | .powerOnReset => true
  | .functionReset => true
  | .arbiterGrant => true
  | .readErrorCompletion _ => true
  | .readCompletionTimeout _ => true
  | .walkRecheckExpiry => true
  | .frameAccumulated => true
  | .gapComplete => true
  | .headWaitTimeout => true
  | .arbitrationLost => true
  | .sendMismatch => true
  | .telegramSent => true
  | .replySlotTimeout => true
  | .slotDominantEarly => true
  | .busyRestExpiry _ => true
  | .breakOff => true
  | .arrived _ _ => true
  | .jammed _ _ => true
  | .hot _ => true
  | .lidOpened => true
  | .lidClosed => true
  | .ownReplySent => true
  | .falseStart => true
  | .noisePulse => true
  | .clearPulseEnd => true
  | .plateRecheckExpiry => true
  | .motionTimerExpiry => true
  | .exposedPacket _ => true
  | .frameEndPacket _ _ => true
  | .fifoRowWritten => true
  | .ackPacket _ => true
  | .ackTimerExpiry => true
  | .rowComputed => true
  | .dryRecheckExpiry => true
  | .dryTimerExpiry => true
  | .referenceRowBuilt => true
  | .linkStateChange _ => true
  | .functionEnableChange _ _ => true

end Sys2Proof
end

