-- ==== Sys2Proof/Machine/RunControl.lean ====
section
/-! DEFINITION. Run control: the run states and their commands (R171, R181 to R187), the anchor (R178, R179), the zero
group (R180), and the resets (R172). -/

namespace Sys2Proof.Machine

def setRunState (r : RunState) (s : State) : State := modPort (fun p => { p with runState := r }) s

/-! ## The walk leaves RUNNING (R126) -/

def chainPurpose : Purpose → Bool
  | .chainLink _ => true
  | .chainHeader _ _ => true
  | _ => false

/-- The walk phase becomes OFF; an examination is abandoned; the timer runs on only for a TAKEN order (R126, R137). -/
def walkOff (s : State) : State :=
  modWalker (fun w =>
    { w with
      phase := .off
      examination := none
      recheckTimer := if w.taken.isSome then w.recheckTimer else none })
    (dropWalker chainPurpose s)

/-! ## FAULTED (R187) -/

/-- The orders held end with a code: the TAKEN order at once, the ACTIVE order when ready (R146). -/
def failHeld (code : ResultCode) (s : State) : State := failActive code (failTaken code s)

def anchorPurpose : Purpose → Bool
  | .anchorPiece _ _ => true
  | _ => false

/-- The STARTING step in progress is abandoned, an anchor read's waiting parts with it (log 27); PINGs still out end
CLEARED in the pulse that follows (R168, log 14). -/
def abandonStart (s : State) : State :=
  modBus (fun b => { b with start := none, trimPulseOut := false })
    (modPort (fun p => { p with startStep := .idle, zeroPending := false }) (dropControl anchorPurpose s))

/-- FAULTED is entered, unless the part is HALTED or FAULTED already: reason and cause, the walk OFF, MEMORY_ERROR for
the held orders, and a clear pulse at once (R177, R187, log 10). -/
def enterFaulted (reason : FaultReason) (s : State) : State :=
  if s.port.runState = .halted || s.port.runState = .faulted then s
  else
    let faulted := modPort (fun p => { p with runState := .faulted, faultReason := reason }) s
    clearAbandoned (abandonStart (failHeld .memoryError (walkOff (setCause .fault faulted))))

/-- A START that fails its anchor leaves no settings in force (R178, R179). -/
def failAnchor (reason : FaultReason) (s : State) : State :=
  enterFaulted reason (modPort (fun p => { p with settings := none }) s)

/-! ## Commands (R181) -/

/-- A command, an anchor write or a CONTROL write refused (R171, R181). -/
def refuse (s : State) : State := setCause .refused s

/-- The anchor is read, after the test of its address (R178); a block that runs past 2^64 is asked for at the addresses
beyond (log 73). -/
def readAnchor (s : State) : State :=
  if anchorAddressBad s.port.anchorRegister then failAnchor .anchorAddress s
  else
    let address := s.port.anchorRegister.toNat
    let reads := readSpan address 512 fun offset => .anchorPiece s.nextOp offset
    presentControl reads (modPort (fun p =>
      { p with startStep := .readingAnchor s.nextOp reads.length, anchorPieces := [] }) (useOp s))

/-- START from HALTED, or from STOPPED with the fresh-start mark set, takes the form of R182; else that of R183. -/
def startsFresh (s : State) : Bool := s.port.runState = .halted || s.port.freshMark

/-- START taken (R182, R183). -/
def beginStart (s : State) : State :=
  readAnchor (modPort (fun p =>
    { p with runState := .starting, startFresh := startsFresh s, freshMark := startsFresh s }) s)

/-- START (R181). -/
def writeStart (s : State) : State :=
  if s.port.runState = .halted || s.port.runState = .stopped then beginStart s else refuse s

/-- STOP (R181, R185). -/
def writeStop (s : State) : State :=
  if s.port.runState = .running then walkOff (setRunState .draining s) else refuse s

/-- ABORT in STARTING: an anchor read or the zero group is completed first; the bus controller's part is abandoned, a
trim or its RATE with the trim INVALID and the rate BASE, its PINGs to end CLEARED in the pulse (R184, R168, log 15);
those whose turn comes while the zero group keeps the pulse waiting are still attempted (log 71); a presence and rate
write that waits is left to be granted (log 46). -/
def abortStarting (s : State) : State :=
  let aborting := setRunState .aborting s
  let trimming := s.bus.start = some .trim || s.bus.start = some .rate
  let abandoned := modBus (fun b =>
    { b with
      start := none
      trimPulseOut := false
      rateRequest := if trimming then none else b.rateRequest
      trimValid := if trimming then false else b.trimValid
      rate := if trimming then .base else b.rate }) aborting
  modPort (fun p =>
    { p with startStep := match p.startStep with
        | .readingAnchor op n => .readingAnchor op n
        | _ => .idle }) abandoned

/-- ABORT in RUNNING or DRAINING (R186). -/
def abortOrders (s : State) : State := failHeld .aborted (walkOff (setRunState .aborting s))

/-- ABORT (R181). -/
def writeAbort (s : State) : State :=
  if s.port.runState = .starting then abortStarting s
  else if s.port.runState = .running || s.port.runState = .draining then abortOrders s
  else refuse s

/-! ## Resets (R172) -/

/-- The port after a reset: the inputs from the link and the function, the record of what was sent and the read
numbers last (logs 7, 24, 26). -/
def resetPort (p : Port) : Port :=
  { Port.reset with
    nextRead := p.nextRead
    linkUp := p.linkUp
    memoryEnable := p.memoryEnable
    messageEnable := p.messageEnable
    sent := p.sent }

/-- The Station Bus Controller after a reset (R147). -/
def resetBus (b : Bus) : Bus := { Bus.reset with nextRequest := b.nextRequest, sent := b.sent }

/-- Frame Intake after a soft reset: the next tag stays (R58). -/
def resetIntake (i : Intake) : Intake := { Intake.reset with nextTag := i.nextTag, sent := i.sent }

/-- A soft reset: every block at its reset values; frame memory and the next tag stay (R172, R58). -/
def softReset (s : State) : State :=
  { s with
    port := resetPort s.port
    walker := .reset
    plate := .reset
    bus := resetBus s.bus
    intake := resetIntake s.intake
    cache := .reset
    merge := .reset
    writer := .reset }

/-- A power-on reset: the next tag 0, frame memory undefined (R58, R172, log 1). -/
def powerOn (s : State) : State :=
  let soft := softReset s
  { soft with
    intake := { soft.intake with nextTag := 0 }
    frame := []
    powerOns := s.powerOns + 1 }

/-! ## Register writes (R171, R203) -/

/-- A write to ANCHOR_LOW or ANCHOR_HIGH: the half replaced in HALTED and STOPPED, refused elsewhere (R171). -/
def writeAnchor (high : Bool) (value : Word32) (s : State) : State :=
  if s.port.runState = .halted || s.port.runState = .stopped then
    modPort (fun p =>
      { p with anchorRegister :=
          if high then value ++ p.anchorRegister.setWidth 32
          else (p.anchorRegister >>> 32).setWidth 32 ++ value }) s
  else refuse s

/-- A CONTROL write: RESET alone or with others; several others refused; one taken; none nothing (R171). -/
def writeControl (value : Word32) (s : State) : State :=
  if value.getLsbD 3 then softReset s
  else if namesSeveral value then refuse s
  else if value.getLsbD 0 then writeStart s
  else if value.getLsbD 1 then writeStop s
  else if value.getLsbD 2 then writeAbort s
  else s

/-! ## The anchor read (R178, R179, R182, R183) -/

/-- The zero group: anchor bytes 256..299, all 0 (R180, R205). -/
def zeroGroup (s : State) : Request := writeRequest (anchorField s 256) (zeroBytes 44) .zeroGroup

/-- RESUME is sent: RESUME_SENT, sends 1, the ack timer started (R70, R73). -/
def sendResume (s : State) : State :=
  modIntake (fun i => { i with flow := .resumeSent, sends := 1, ackTimer := some Config.ackLimit })
    (sendBack .resume s)

/-- PAUSE is sent: PAUSE_SENT, sends 1, the ack timer started (R70). -/
def sendPause (s : State) : State :=
  modIntake (fun i => { i with flow := .pauseSent, sends := 1, ackTimer := some Config.ackLimit })
    (sendBack .pause s)

/-- START, from HALTED or from STOPPED, sets the plate-change flag (R1). -/
def setPlateChange (s : State) : State := modPlate (fun p => { p with plateChange := true }) s

/-- The anchor accepted in the form of R182: the zero group presented, RESUME sent, the plate-change flag set, the
clear pulse requested (R182 steps 3 and 4). -/
def acceptFresh (s : State) : State :=
  let zeroed := modPort (fun p =>
    { p with zeroPending := true, noticeCount := 0, presence := .none, startStep := .busPart }) s
  beginClear .runControl
    (modBus (fun b => { b with start := some .pulse })
      (setPlateChange (sendResume (presentControl [zeroGroup s] zeroed))))

/-- A take index at or beyond the new entry count is set to 0 and written (R107, R183 step 2). -/
def checkTakeIndex (s : State) : State :=
  match s.port.settings with
  | none => s
  | some w =>
    if w.poolCount ≤ s.writer.commonTake then
      presentWriter [writeRequest (anchorField s 264) (leBytes 4 0) .poolWrite]
        (modWriter (fun t => { t with commonTake := 0 }) s)
    else s

/-- The anchor accepted in the form of R183: the take index, the plate-change flag, the roll call. -/
def acceptAgain (s : State) : State :=
  beginRollCall (setPlateChange (checkTakeIndex (modPort (fun p => { p with startStep := .busPart }) s)))

/-- The anchor is accepted: its settings copied (R179), and the rest of STARTING begun. -/
def acceptAnchor (settings : Settings) (s : State) : State :=
  let copied := modPort (fun p => { p with settings := some settings }) s
  if s.port.startFresh then acceptFresh copied else acceptAgain copied

/-- The whole anchor block has been read: tested, then accepted (R178). -/
def anchorRead (bytes : List Byte) (s : State) : State :=
  let address := s.port.anchorRegister.toNat
  match anchorTests address bytes with
  | some reason => failAnchor reason s
  | none => acceptAnchor (parseSettings address bytes) s

/-- A part of the anchor block has been read; in ABORTING the result is discarded (R178, R184). -/
def anchorPieceRead (op offset : Nat) (data : List Byte) (s : State) : State :=
  match s.port.startStep with
  | .readingAnchor reading awaited =>
    if reading ≠ op then s
    else
      let pieces := insertPiece ⟨offset, data⟩ s.port.anchorPieces
      if awaited ≤ 1 then
        let whole := modPort (fun p => { p with startStep := .idle, anchorPieces := [] }) s
        if s.port.runState = .starting then anchorRead (pieceBytes pieces) whole else whole
      else
        modPort (fun p => { p with startStep := .readingAnchor op (awaited - 1), anchorPieces := pieces }) s
  | _ => s

/-- A part of the anchor read failed: the parts still waiting go (log 27), and it is ANCHOR_READ, or discarded in
ABORTING (R178, R184). -/
def anchorPieceFailed (op : Nat) (s : State) : State :=
  match s.port.startStep with
  | .readingAnchor reading _ =>
    if reading ≠ op then s
    else
      let ended := modPort (fun p => { p with startStep := .idle, anchorPieces := [] }) (dropControl anchorPurpose s)
      if s.port.runState = .starting then failAnchor .anchorRead ended else ended
  | _ => s

/-- The zero group is accepted: the fresh-start mark cleared (R182 step 3, R184). -/
def zeroAccepted (s : State) : State := modPort (fun p => { p with zeroPending := false, freshMark := false }) s

/-- The last write of STARTING is accepted: RUNNING, SETTLED, and the walk begins (R182 step 6, R183 step 5). -/
def startReported (s : State) : State :=
  if s.port.runState = .starting && s.port.startStep = .reporting then
    modWalker (fun w => { w with phase := .examining })
      (setCause .settled (modPort (fun p => { p with runState := .running, startStep := .idle }) s))
  else s

/-! ## Transitions run control makes itself (R184 to R186) -/

/-- A withdrawal before the take is still being written; its order counts as a TAKEN order for STOP and ABORT
(R126). -/
def withdrawing (s : State) : Bool := s.port.walkerRequests.any fun r => r.purpose = .withdrawnState

/-- Neither a TAKEN nor an ACTIVE order is held (R146, R126). -/
def noOrderHeld (s : State) : Bool := s.walker.taken.isNone && s.walker.active.isNone && !withdrawing s

/-- ABORTING may ask for its pulse: no order held, and no step of STARTING still to be completed (R184, R186). -/
def abortPulseDue (s : State) : Bool :=
  s.port.runState = .aborting && noOrderHeld s && !s.port.zeroPending && s.port.startStep = .idle

/-- DRAINING to STOPPED; ABORTING's clear pulse. -/
def controlAdvance (s : State) : Option State :=
  if s.port.runState = .draining && noOrderHeld s then some (setCause .settled (setRunState .stopped s))
  else if abortPulseDue s then
    some (clearAbandoned (modPort (fun p => { p with startStep := .pulsing }) s))
  else none

end Sys2Proof.Machine
end

