-- ==== Sys2Proof/Machine/IntakeOps.lean ====
section
/-! DEFINITION. Frame Intake: packets, the row FIFO, flow control, triggers and reservations (R58 to R75). -/

namespace Sys2Proof.Machine

/-! ## Flow control (R70 to R73) -/

/-- The FIFO level counts rows only (R67). -/
def isRow : FifoItem → Bool
  | .row _ _ _ => true
  | .frameEnd _ _ => false

def fifoLevel (s : State) : Nat := (s.intake.fifo.filter isRow).length

/-- RESUME at once when the level is at most 16 (R71). -/
def resumeIfLow (s : State) : State := if fifoLevel s ≤ Config.resumeMark then sendResume s else s

/-- The level has changed: PAUSE at 48 in FLOWING when it rose, RESUME at 16 in PAUSED (R70). -/
def flowCheck (rose : Bool) (s : State) : State :=
  match s.intake.flow with
  | .flowing => if rose && Config.pauseMark ≤ fifoLevel s then sendPause s else s
  | .paused => if fifoLevel s ≤ Config.resumeMark then sendResume s else s
  | _ => s

/-- ACK(PAUSE): an answer to the outstanding PAUSE, or to one that stalled (R71). The sends of the answered request
stand until the next one (log 64). -/
def ackPause (s : State) : State :=
  match s.intake.flow with
  | .pauseSent => resumeIfLow (modIntake (fun i => { i with flow := .paused, ackTimer := none }) s)
  | .flowing => resumeIfLow (modIntake (fun i => { i with flow := .paused }) s)
  | _ => s

/-- ACK(RESUME) (R71); the sends of the answered request stand (log 64). -/
def ackResume (s : State) : State :=
  match s.intake.flow with
  | .resumeSent =>
    let flowing := modIntake (fun i => { i with flow := .flowing, ackTimer := none }) s
    if Config.pauseMark ≤ fifoLevel flowing then sendPause flowing else flowing
  | _ => s

/-- The outstanding flow request, as a packet. -/
def flowPacket (f : FlowState) : BackPacket :=
  match f with
  | .pauseSent => .pause
  | _ => .resume

/-- The link is stalled: FLOWING, and an order in its capture fails (R72); the sends of the stalled request stand
(log 64). -/
def stallLink (s : State) : State :=
  let flowing := modIntake (fun i => { i with flow := .flowing, ackTimer := none }) s
  if capturing s then failActive .cameraTimeout flowing else flowing

/-- The ack timer runs out: sent again while sends is 1 or 2, else the link is stalled (R72). -/
def ackExpired (s : State) : State :=
  if s.intake.sends < Config.maxSends then
    sendBack (flowPacket s.intake.flow)
      (modIntake (fun i => { i with sends := i.sends + 1, ackTimer := some Config.ackLimit }) s)
  else stallLink s

/-! ## The outstanding trigger list -/

def triggerOf (tag : Byte) (s : State) : Option Trigger := s.intake.triggers.find? fun e => e.tag = tag

def modTrigger (tag : Byte) (f : Trigger → Trigger) (s : State) : State :=
  modIntake (fun i => { i with triggers := i.triggers.map fun e => if e.tag = tag then f e else e }) s

/-- EXPOSED is reported for a listed tag: STREAMING, and the Plate Controller told (R62). -/
def reportExposed (tag : Byte) (s : State) : State :=
  plateExposed tag (modTrigger tag (fun e => { e with phase := .streaming }) s)

def damageTrigger (tag : Byte) (s : State) : State := modTrigger tag (fun e => { e with damaged := true }) s

/-- The EXPOSED packet of an entry still AWAITING_EXPOSED was lost: reported, and the damage mark set (R65, R68). -/
def lostExposed (e : Trigger) (s : State) : State :=
  if e.phase = .awaitingExposed then damageTrigger e.tag (reportExposed e.tag s) else s

/-- The slot of a trigger request can take it: RESERVED or DAMAGED, and owned by the ACTIVE order (R61). -/
def triggerable (s : State) (slot : Nat) : Bool :=
  ((slotAt s slot).state = .reserved || (slotAt s slot).state = .damaged) &&
    (slotAt s slot).owner.isSome && (slotAt s slot).owner = activeNumber s

/-- A trigger request is taken: the next free tag, a list entry, the slot FILLING, TRIGGER sent, the tag told (R61). -/
def takeTrigger (r : TriggerRequest) (s : State) : State :=
  let tag := skipTags (s.intake.triggers.map Trigger.tag) Config.triggerPlaces s.intake.nextTag
  let listed := modIntake (fun i =>
    { i with
      nextTag := tag + 1
      triggers := i.triggers ++ [⟨tag, r.slot, .awaitingExposed, 0, false⟩] }) s
  let filling := modSlot r.slot (fun slot => { slot with state := .filling, tag := some tag }) listed
  triggerTaken r.place r.step tag (sendBack (.trigger tag r.step) filling)

/-! ## Rows (R65 to R69) -/

/-- The row number, the packed samples and the check word of a ROW packet's bytes, its type byte left out (10.11). -/
def packetRow (bytes : List Byte) : Nat := fieldNat bytes 1 2

def packetSamples (bytes : List Byte) : List Byte := (bytes.drop 3).take Config.packedRowBytes

def packetCheck (bytes : List Byte) : Word16 := BitVec.ofNat 16 (fieldNat bytes (3 + Config.packedRowBytes) 2)

/-- The packet is whole: a tag, a row number, the samples of a row and a check word (R206). -/
def packetWhole (bytes : List Byte) : Bool := bytes.length = 5 + Config.packedRowBytes

/-- The row is whole, well checked over tag, row number and samples, and in sequence (R65, R206). -/
def rowGood (e : Trigger) (bytes : List Byte) : Bool :=
  packetWhole bytes && crc16 (bytes.take (3 + Config.packedRowBytes)) = packetCheck bytes &&
    packetRow bytes = e.expected && packetRow bytes < Config.frameRows

/-- A good row joins the FIFO, or is dropped with the damage mark set where the FIFO holds 64 (R65, R69). -/
def placeFifoRow (tag : Byte) (row : Nat) (samples : List Byte) (s : State) : State :=
  if fifoLevel s < Config.fifoPlaces then
    flowCheck true (modTrigger tag (fun e => { e with expected := e.expected + 1 })
      (modIntake (fun i => { i with fifo := i.fifo ++ [.row tag row samples] }) s))
  else damageTrigger tag s

/-- FRAME_END of the tag has arrived: its mark is in the FIFO (R68). -/
def frameEnded (tag : Byte) (s : State) : Bool :=
  s.intake.fifo.any fun item =>
    match item with
    | .frameEnd t _ => t = tag
    | .row _ _ _ => false

/-- A ROW packet of that tag: after its FRAME_END it is discarded (R64, R65, R68). -/
def tagRowArrived (tag : Byte) (bytes : List Byte) (s : State) : State :=
  match triggerOf tag s with
  | none => s
  | some e =>
    if e.damaged || frameEnded tag s then s
    else if e.phase = .awaitingExposed then lostExposed e s
    else if rowGood e bytes then placeFifoRow tag (packetRow bytes) (packetSamples bytes) s
    else damageTrigger tag s

/-- A ROW packet by the tag it begins with; one too short to hold a tag names none of the list and is discarded (R64,
R206, log 43). -/
def rowArrived (bytes : List Byte) (s : State) : State :=
  match bytes with
  | [] => s
  | tag :: _ => tagRowArrived tag bytes s

/-- A FRAME_END packet: a mark behind the rows, or late (R68, R64). -/
def frameEndArrived (tag : Byte) (count : Word16) (s : State) : State :=
  match triggerOf tag s with
  | none => latePacket s
  | some e =>
    modIntake (fun i => { i with fifo := i.fifo ++ [.frameEnd tag count.toNat] }) (lostExposed e s)

/-- An EXPOSED packet (R62, R64). -/
def exposedArrived (tag : Byte) (s : State) : State :=
  match triggerOf tag s with
  | none => latePacket s
  | some e => if e.phase = .awaitingExposed then reportExposed tag s else s

/-- A row at the head is written unpacked into its slot when its tag is listed and undamaged, else dropped (R66,
R67). -/
def writeFifoRow (tag : Byte) (row : Nat) (samples : List Byte) (s : State) : State :=
  match triggerOf tag s with
  | none => s
  | some e =>
    if e.damaged then s
    else writeFrame (slotBase e.slot + row * Config.rowBytes) (bytes16 (unpackSamples samples)) s

/-- The head row leaves the FIFO, written or dropped, and the flow protocol looks at the level (R67, R70). -/
def fifoRowDone (s : State) : State :=
  match s.intake.fifo with
  | .row tag row samples :: rest =>
    flowCheck false (modIntake (fun i => { i with fifo := rest }) (writeFifoRow tag row samples s))
  | _ => s

/-- A frame is whole: no damage, all 4096 rows, and FRAME_END said so (R68). -/
def frameWhole (e : Trigger) (count : Nat) : Bool :=
  !e.damaged && e.expected = Config.frameRows && count = Config.frameRows

/-- The frame ends: the entry leaves, the slot becomes FULL or DAMAGED, the Plate Controller is told (R68). -/
def endFrame (e : Trigger) (count : Nat) (s : State) : State :=
  let whole := frameWhole e count
  let unlisted := modIntake (fun i => { i with triggers := i.triggers.filter fun t => t.tag ≠ e.tag }) s
  let settled := moveSlot [.filling] (if whole then .full else .damaged) e.slot unlisted
  plateFrameEnd e.tag whole settled

/-- A frame-end mark at the head ends the frame of a listed tag; of any other it is late (R67, R68). -/
def markAdvance (s : State) : Option State :=
  match s.intake.fifo with
  | .frameEnd tag count :: rest =>
    let popped := modIntake (fun i => { i with fifo := rest }) s
    match triggerOf tag popped with
    | some e => some (endFrame e count popped)
    | none => some (latePacket popped)
  | _ => none

/-! ## Reservations and triggers -/

/-- The slots become RESERVED, owned by the ACTIVE order (R74). -/
def reserveSlots (slots : List Nat) (owner : Option Nat) (s : State) : State :=
  slots.foldl (fun s n => modSlot n (fun _ => ⟨.reserved, none, owner⟩) s) s

/-- The pending reservation is granted whole once enough slots are FREE (R74). -/
def grantAdvance (s : State) : Option State :=
  match s.intake.reservation with
  | none => none
  | some count =>
    let slots := (freeSlots s).take count
    if slots.length = count then
      some (reservationGranted slots (reserveSlots slots (activeNumber s) (withdrawReservation s)))
    else none

/-- The waiting trigger request is taken once the list has a place; one that names a slot it may not is refused
(R61). -/
def triggerAdvance (s : State) : Option State :=
  match s.intake.waitingTrigger with
  | none => none
  | some r =>
    let asked := modIntake (fun i => { i with waitingTrigger := none }) s
    if !triggerable s r.slot then some asked
    else if s.intake.triggers.length < Config.triggerPlaces then some (takeTrigger r asked)
    else none

end Sys2Proof.Machine
end

