-- ==== Sys2Proof/Machine/CacheOps.lean ====
section
/-! DEFINITION. The Reference Cache: resolutions (R83 to R87), loads (R88 to R90), and the making of a reference (R91 to
R98). -/

namespace Sys2Proof.Machine

/-! ## Resolution -/

/-- The TAKEN order holds an entry for the index just resolved (R83, R134). -/
def takeHold (index entry : Nat) (s : State) : State :=
  modTaken (fun o => { o with toResolve := o.toResolve.tail, holds := o.holds ++ [⟨index, entry⟩] }) s

/-- A hit: hold count up by one, to the LRU head, the pin request applied (R83). -/
def hitEntry (n : Nat) (e : DirectoryEntry) (s : State) : State :=
  applyPin n e.pin (toLruHead n (modEntry n (fun c => { c with holds := c.holds + 1 }) s))

/-- The resolution of an index at the generation read: a hit, a stale reuse, a victim, or a wait (R83 to R86). -/
def resolveIndex (index : Nat) (e : DirectoryEntry) (s : State) : Option State :=
  match carrying s index with
  | some n =>
    if (entryAt s n).generation = e.generation then some (takeHold index n (hitEntry n e s))
    else if (entryAt s n).state = .ready && (entryAt s n).holds = 0 then
      some (takeHold index n (beginLoad n index e s))
    else none
  | none =>
    match victim s with
    | some n => some (takeHold index n (beginLoad n index e s))
    | none => none

/-- The next index of the TAKEN order is resolved, if it can be (R134). -/
def resolveAdvance (s : State) : Option State :=
  match s.walker.taken with
  | none => none
  | some o =>
    if o.ending || o.setup ≠ .resolving || !o.roles.isEmpty then none
    else
      match o.toResolve with
      | [] => none
      | index :: _ =>
        match directoryFind o.directory index with
        | some e => resolveIndex index e s
        | none => none

/-! ## Loads -/

/-- Bytes of the load of a LOADING entry have landed; with every byte of the image it is READY (R88). -/
def landLoad (length : Nat) (e : CacheEntry) : CacheEntry :=
  match e.state, e.load with
  | .loading, some l =>
    if l.landed + length = Config.imageBytes then { e with state := .ready, load := none }
    else { e with load := some { l with landed := l.landed + length } }
  | _, _ => e

/-- Bytes of a load have come: written unchanged into the entry's place (R88). -/
def loadRead (n op offset : Nat) (data : List Byte) (s : State) : State :=
  match (entryAt s n).load with
  | none => s
  | some l =>
    if l.op ≠ op then s
    else modEntry n (landLoad data.length) (writeFrame (entryBase n + offset) data s)

/-- A read of a load failed (R89). -/
def loadReadFailed (n op : Nat) (s : State) : State :=
  match (entryAt s n).load with
  | none => s
  | some l => if l.op = op then failLoad n s else s

/-! ## Requests in rotation (R88) -/

/-- The entry has a request to present: a load with reads left, or the install entry of a write-back. -/
def entryWaits (s : State) (n : Nat) : Bool :=
  match (entryAt s n).load with
  | some l => l.next < Config.imageBytes
  | none =>
    match s.cache.work with
    | some w => w.install = some n && !s.cache.writeBack.isEmpty
    | none => false

/-- The entry whose turn it is: the next in rising number after the last, cyclically (R88). -/
def rotationEntry (s : State) : Option Nat :=
  let waiting := (List.range s.cache.entries.length).filter (entryWaits s)
  match waiting.find? fun n => s.cache.rotation < n with
  | some n => some n
  | none => waiting.head?

/-- The request an entry presents in its turn. -/
def entryRequest (s : State) (n : Nat) : Option Request :=
  match (entryAt s n).load with
  | some l =>
    some (readRequest (l.image + l.next) (min Config.requestBytes (Config.imageBytes - l.next))
      (.loadPiece n l.op l.next))
  | none => s.cache.writeBack.head?

/-- The request has been granted: the load or the write-back goes on from the next. -/
def entryGranted (n : Nat) (s : State) : State :=
  let turned := modCache (fun c => { c with rotation := n }) s
  match (entryAt s n).load with
  | some l =>
    let asked := l.next + min Config.requestBytes (Config.imageBytes - l.next)
    modEntry n (fun e => { e with load := some { l with next := asked } }) turned
  | none => modCache (fun c => { c with writeBack := c.writeBack.tail }) turned

/-! ## Making a reference -/

def modWork (f : ReferenceWork → ReferenceWork) (s : State) : State :=
  modCache (fun c => { c with work := c.work.map f }) s

/-- FRAME_ACCUMULATED: the frame's samples are in the sums, the frame slot FREE, the Plate Controller told (R92). -/
def accumulateFrame (s : State) : State :=
  match s.cache.work with
  | none => s
  | some w =>
    match w.accumulators, w.frameInHand with
    | some acc, some slot =>
      let summed := accumulateRows acc slot (w.accumulated = 0) Config.frameRows s
      modPlate (fun p => { p with frameAccumulated := true })
        (modWork (fun w => { w with accumulated := w.accumulated + 1, frameInHand := none })
          (moveSlots [.full] .free [slot] summed))
    | _, _ => s

/-- The held dark of a FLAT is READY; a DARK needs none (R93). -/
def darkReady (s : State) (w : ReferenceWork) : Bool :=
  match w.darkEntry with
  | none => true
  | some n => (entryAt s n).state = .ready

/-- The build begins: every frame accumulated, the capture done, the dark READY (R93). -/
def buildDue (s : State) (w : ReferenceWork) : Bool :=
  w.stage = .accumulating && w.accumulated = w.frames && w.captureDone && darkReady s w

/-- The entry to install into: the one carrying the target index, once its load has ended; else a victim (R94). -/
def installChoice (s : State) (w : ReferenceWork) : Option Nat :=
  match carrying s w.target with
  | some n => if (entryAt s n).state = .loading then none else some n
  | none => victim s

/-- The write-back's requests go by its install entry's turns, in their order (R88). -/
def presentWriteBack (rs : List Request) (s : State) : State :=
  modCache (fun c => { c with writeBack := c.writeBack ++ rs }) s

/-- The entry is INSTALLING, and the write-back's read is to be presented (R94, R95). -/
def chooseInstall (n : Nat) (w : ReferenceWork) (s : State) : State :=
  let installing := toLruHead n (modEntry n (fun e =>
    { e with state := .installing, index := w.target, holds := 0, load := none }) s)
  let address := (s.port.settings.map Settings.directory).getD 0 + 64 * w.target
  presentWriteBack [readRequest address 64 (.writeBackEntry s.nextOp)]
    (modWork (fun w => { w with stage := .readingEntry, install := some n, op := s.nextOp }) (useOp installing))

def workAdvance (s : State) : Option State :=
  match s.cache.work with
  | none => none
  | some w =>
    if buildDue s w then some (modWork (fun w => { w with stage := .choosing }) s)
    else if w.stage = .choosing then (installChoice s w).map fun n => chooseInstall n w s
    else none

/-- The station address of the target's directory entry. -/
def targetAddress (s : State) (w : ReferenceWork) : Nat :=
  (s.port.settings.map Settings.directory).getD 0 + 64 * w.target

/-- The write-back's read has come: the install entry has the generation read (R94, log 51), UPDATING is to be
presented, the build is at row 0 (R95). -/
def writeBackRead (op : Nat) (data : List Byte) (s : State) : State :=
  match s.cache.work with
  | none => s
  | some w =>
    if w.op ≠ op || w.stage ≠ .readingEntry then s
    else
      let read := (parseDirectory data).generation
      let entered := w.install.toList.foldl (fun s n => modEntry n (fun e => { e with generation := read }) s) s
      presentWriteBack [writeRequest (targetAddress s w) (leBytes 2 2) (.entryWritten op)]
        (modWork (fun w => { w with stage := .building, generation := read, row := 0, sum := 0 }) entered)

/-- The write-back's read failed (R95). -/
def writeBackReadFailed (op : Nat) (s : State) : State :=
  match s.cache.work with
  | none => s
  | some w => if w.op = op && w.stage = .readingEntry then failActive .memoryError s else s

/-- (Σ + N div 2) div N (R96). -/
def averageSum (frames sum : Nat) : Nat := (sum + frames / 2) / frames

/-- The result of a pixel of a FLAT: the average less the dark, or 0 (R96). -/
def flatValue (average dark : Nat) : Nat := average - min dark Config.sampleMax

/-- The result of a row, from its sums and the dark's row (R96). -/
def resultRow (flat : Bool) (frames : Nat) (sums darks : List Nat) : List Nat :=
  let averages := sums.map (averageSum frames)
  if flat then List.zipWith flatValue averages darks else averages

/-- The values of a built row, read from the accumulators and the held dark (R95, R96). -/
def builtRow (s : State) (w : ReferenceWork) (acc : Nat × Nat) : List Nat :=
  resultRow w.flat w.frames (rowSums s acc w.row) (rowValues s (entryBase (w.darkEntry.getD 0)) w.row)

/-- REFERENCE_ROW_BUILT: the row is in the install entry and its writes are presented (R95, R96). -/
def buildRow (s : State) : State :=
  match s.cache.work with
  | none => s
  | some w =>
    match w.stage, w.accumulators, w.install with
    | .building, some acc, some n =>
      if Config.frameRows ≤ w.row then s
      else
        let values := builtRow s w acc
        let data := bytes16 values
        let writes := writeSpan (w.image + w.row * Config.rowBytes) data .cacheWrite (.rowWritten w.op w.row)
        modWork (fun w => { w with row := w.row + 1, sum := w.sum + values.sum })
          (presentWriteBack writes (writeFrame (entryBase n + w.row * Config.rowBytes) data s))
    | _, _, _ => s

/-- The mean of the result, rounded half up (R96). -/
def resultMean (sum : Nat) : Nat := (2 * sum + Config.imagePixels) / (2 * Config.imagePixels)

/-- Row 4095 is written: the accumulators given back, the fields and VALID to be presented (R97). -/
def completeResult (w : ReferenceWork) (s : State) : State :=
  let freed := moveSlots [.accumulator] .free (accumulatorList w.accumulators) s
  let fields := directoryGroup w (w.generation + 1) (resultMean w.sum)
  presentWriteBack
    [writeRequest (targetAddress s w + 2) fields (.entryWritten w.op),
      writeRequest (targetAddress s w) (leBytes 2 1) (.validWritten w.op)]
    (modWork (fun w => { w with stage := .completing, accumulators := none }) freed)

/-- The last request of a row has been accepted (R95, R97). -/
def rowAccepted (op row : Nat) (s : State) : State :=
  match s.cache.work with
  | none => s
  | some w =>
    if w.op = op && w.stage = .building && row + 1 = Config.frameRows then completeResult w s else s

/-- The INSTALLING entry is READY at the next generation with no hold (R97). -/
def installed (generation : Word32) (e : CacheEntry) : CacheEntry :=
  if e.state = .installing then { e with state := .ready, generation := generation, holds := 0 } else e

/-- VALID is accepted: the install entry READY at the next generation, the pin applied, the result complete (R97). -/
def validAccepted (op : Nat) (s : State) : State :=
  match s.cache.work with
  | none => s
  | some w =>
    if w.op ≠ op then s
    else
      let ready := w.install.toList.foldl (fun s n =>
        applyPin n w.pin (modEntry n (installed (w.generation + 1)) s)) s
      modActive (fun a => { a with workEnded := true })
        (modCache (fun c => { c with work := none, writeBack := [] }) ready)

end Sys2Proof.Machine
end

