-- ==== Sys2Proof/Machine/LogTable.lean ====
section
/-! DEFINITION. The logarithm table of R41: entry `m` is 4096 × log10(1 + m / 1024), rounded half up, for
`m` = 0..1023. Checked against its definition in Tests (`test_log_table_entries`). -/

namespace Sys2Proof.Machine

def logTable0 : List Nat :=
  [0, 2, 3, 5, 7, 9, 10, 12, 14, 16, 17, 19, 21, 22, 24, 26,
   28, 29, 31, 33, 34, 36, 38, 40, 41, 43, 45, 46, 48, 50, 51, 53,
   55, 56, 58, 60, 61, 63, 65, 66, 68, 70, 72, 73, 75, 77, 78, 80,
   81, 83, 85, 86, 88, 90, 91, 93, 95, 96, 98, 100, 101, 103, 105, 106]

def logTable1 : List Nat :=
  [108, 109, 111, 113, 114, 116, 118, 119, 121, 122, 124, 126, 127, 129, 131, 132,
   134, 135, 137, 139, 140, 142, 143, 145, 147, 148, 150, 151, 153, 155, 156, 158,
   159, 161, 163, 164, 166, 167, 169, 170, 172, 174, 175, 177, 178, 180, 182, 183,
   185, 186, 188, 189, 191, 192, 194, 196, 197, 199, 200, 202, 203, 205, 206, 208]

def logTable2 : List Nat :=
  [210, 211, 213, 214, 216, 217, 219, 220, 222, 223, 225, 226, 228, 229, 231, 233,
   234, 236, 237, 239, 240, 242, 243, 245, 246, 248, 249, 251, 252, 254, 255, 257,
   258, 260, 261, 263, 264, 266, 267, 269, 270, 272, 273, 275, 276, 278, 279, 281,
   282, 284, 285, 287, 288, 290, 291, 292, 294, 295, 297, 298, 300, 301, 303, 304]

def logTable3 : List Nat :=
  [306, 307, 309, 310, 312, 313, 314, 316, 317, 319, 320, 322, 323, 325, 326, 328,
   329, 330, 332, 333, 335, 336, 338, 339, 340, 342, 343, 345, 346, 348, 349, 350,
   352, 353, 355, 356, 358, 359, 360, 362, 363, 365, 366, 368, 369, 370, 372, 373,
   375, 376, 377, 379, 380, 382, 383, 384, 386, 387, 389, 390, 391, 393, 394, 396]

def logTable4 : List Nat :=
  [397, 398, 400, 401, 402, 404, 405, 407, 408, 409, 411, 412, 414, 415, 416, 418,
   419, 420, 422, 423, 425, 426, 427, 429, 430, 431, 433, 434, 435, 437, 438, 440,
   441, 442, 444, 445, 446, 448, 449, 450, 452, 453, 454, 456, 457, 458, 460, 461,
   462, 464, 465, 466, 468, 469, 470, 472, 473, 474, 476, 477, 478, 480, 481, 482]

def logTable5 : List Nat :=
  [484, 485, 486, 488, 489, 490, 492, 493, 494, 496, 497, 498, 500, 501, 502, 503,
   505, 506, 507, 509, 510, 511, 513, 514, 515, 517, 518, 519, 520, 522, 523, 524,
   526, 527, 528, 529, 531, 532, 533, 535, 536, 537, 538, 540, 541, 542, 544, 545,
   546, 547, 549, 550, 551, 553, 554, 555, 556, 558, 559, 560, 561, 563, 564, 565]

def logTable6 : List Nat :=
  [566, 568, 569, 570, 572, 573, 574, 575, 577, 578, 579, 580, 582, 583, 584, 585,
   587, 588, 589, 590, 592, 593, 594, 595, 597, 598, 599, 600, 602, 603, 604, 605,
   606, 608, 609, 610, 611, 613, 614, 615, 616, 618, 619, 620, 621, 622, 624, 625,
   626, 627, 629, 630, 631, 632, 633, 635, 636, 637, 638, 640, 641, 642, 643, 644]

def logTable7 : List Nat :=
  [646, 647, 648, 649, 650, 652, 653, 654, 655, 656, 658, 659, 660, 661, 662, 664,
   665, 666, 667, 668, 670, 671, 672, 673, 674, 676, 677, 678, 679, 680, 681, 683,
   684, 685, 686, 687, 689, 690, 691, 692, 693, 694, 696, 697, 698, 699, 700, 701,
   703, 704, 705, 706, 707, 708, 710, 711, 712, 713, 714, 715, 717, 718, 719, 720]

def logTable8 : List Nat :=
  [721, 722, 724, 725, 726, 727, 728, 729, 731, 732, 733, 734, 735, 736, 737, 739,
   740, 741, 742, 743, 744, 745, 747, 748, 749, 750, 751, 752, 753, 755, 756, 757,
   758, 759, 760, 761, 762, 764, 765, 766, 767, 768, 769, 770, 772, 773, 774, 775,
   776, 777, 778, 779, 780, 782, 783, 784, 785, 786, 787, 788, 789, 791, 792, 793]

def logTable9 : List Nat :=
  [794, 795, 796, 797, 798, 799, 801, 802, 803, 804, 805, 806, 807, 808, 809, 810,
   812, 813, 814, 815, 816, 817, 818, 819, 820, 821, 823, 824, 825, 826, 827, 828,
   829, 830, 831, 832, 833, 835, 836, 837, 838, 839, 840, 841, 842, 843, 844, 845,
   846, 848, 849, 850, 851, 852, 853, 854, 855, 856, 857, 858, 859, 860, 862, 863]

def logTable10 : List Nat :=
  [864, 865, 866, 867, 868, 869, 870, 871, 872, 873, 874, 875, 876, 877, 879, 880,
   881, 882, 883, 884, 885, 886, 887, 888, 889, 890, 891, 892, 893, 894, 895, 896,
   898, 899, 900, 901, 902, 903, 904, 905, 906, 907, 908, 909, 910, 911, 912, 913,
   914, 915, 916, 917, 918, 919, 920, 922, 923, 924, 925, 926, 927, 928, 929, 930]

def logTable11 : List Nat :=
  [931, 932, 933, 934, 935, 936, 937, 938, 939, 940, 941, 942, 943, 944, 945, 946,
   947, 948, 949, 950, 951, 952, 953, 954, 955, 956, 957, 958, 959, 960, 961, 962,
   963, 964, 965, 966, 967, 968, 969, 970, 971, 973, 974, 975, 976, 977, 978, 979,
   980, 981, 982, 983, 984, 985, 986, 987, 988, 989, 990, 991, 992, 993, 993, 994]

def logTable12 : List Nat :=
  [995, 996, 997, 998, 999, 1000, 1001, 1002, 1003, 1004, 1005, 1006, 1007, 1008, 1009, 1010,
   1011, 1012, 1013, 1014, 1015, 1016, 1017, 1018, 1019, 1020, 1021, 1022, 1023, 1024, 1025, 1026,
   1027, 1028, 1029, 1030, 1031, 1032, 1033, 1034, 1035, 1036, 1037, 1038, 1039, 1040, 1041, 1042,
   1043, 1043, 1044, 1045, 1046, 1047, 1048, 1049, 1050, 1051, 1052, 1053, 1054, 1055, 1056, 1057]

def logTable13 : List Nat :=
  [1058, 1059, 1060, 1061, 1062, 1063, 1064, 1065, 1066, 1067, 1067, 1068, 1069, 1070, 1071, 1072,
   1073, 1074, 1075, 1076, 1077, 1078, 1079, 1080, 1081, 1082, 1083, 1084, 1085, 1085, 1086, 1087,
   1088, 1089, 1090, 1091, 1092, 1093, 1094, 1095, 1096, 1097, 1098, 1099, 1100, 1101, 1101, 1102,
   1103, 1104, 1105, 1106, 1107, 1108, 1109, 1110, 1111, 1112, 1113, 1114, 1115, 1115, 1116, 1117]

def logTable14 : List Nat :=
  [1118, 1119, 1120, 1121, 1122, 1123, 1124, 1125, 1126, 1127, 1127, 1128, 1129, 1130, 1131, 1132,
   1133, 1134, 1135, 1136, 1137, 1138, 1138, 1139, 1140, 1141, 1142, 1143, 1144, 1145, 1146, 1147,
   1148, 1149, 1149, 1150, 1151, 1152, 1153, 1154, 1155, 1156, 1157, 1158, 1159, 1159, 1160, 1161,
   1162, 1163, 1164, 1165, 1166, 1167, 1168, 1168, 1169, 1170, 1171, 1172, 1173, 1174, 1175, 1176]

def logTable15 : List Nat :=
  [1177, 1177, 1178, 1179, 1180, 1181, 1182, 1183, 1184, 1185, 1185, 1186, 1187, 1188, 1189, 1190,
   1191, 1192, 1193, 1193, 1194, 1195, 1196, 1197, 1198, 1199, 1200, 1201, 1201, 1202, 1203, 1204,
   1205, 1206, 1207, 1208, 1209, 1209, 1210, 1211, 1212, 1213, 1214, 1215, 1216, 1216, 1217, 1218,
   1219, 1220, 1221, 1222, 1223, 1223, 1224, 1225, 1226, 1227, 1228, 1229, 1230, 1230, 1231, 1232]

/-- TBL (R41). -/
def logTable : List Nat :=
  logTable0 ++ logTable1 ++ logTable2 ++ logTable3 ++
  logTable4 ++ logTable5 ++ logTable6 ++ logTable7 ++
  logTable8 ++ logTable9 ++ logTable10 ++ logTable11 ++
  logTable12 ++ logTable13 ++ logTable14 ++ logTable15

end Sys2Proof.Machine
end

