-- ==== Sys2Proof/Machine/MergeArith.lean ====
section
/-! DEFINITION. The merge computation of one pixel and one row (R34 to R49, R53, R54): integer arithmetic, to the last
code. -/

namespace Sys2Proof.Machine

/-- A transmitted member's reading at one pixel: sample S, dark D, dose X (R34). -/
structure MemberPixel where
  sample : Nat
  dark : Nat
  dose : Nat
  deriving DecidableEq, Repr

/-- The merge's three bounds after their clamps (R30). -/
structure MergeBounds where
  floor : Nat
  ceiling : Nat
  flatFloor : Nat
  deriving DecidableEq, Repr

/-- The quality classes (R44). -/
inductive PixelClass where
  | merged | single | clippedHigh | clippedLow
  deriving DecidableEq, Repr

/-- What the decision gives for a pixel. -/
structure PixelResult where
  cls : PixelClass
  code : Nat
  overBright : Bool
  referenceDefect : Bool
  deriving DecidableEq, Repr

/-- The class numbers of R44. -/
def classNumber : PixelClass → Nat
  | .merged => 0
  | .single => 1
  | .clippedHigh => 2
  | .clippedLow => 3

/-- A reference value above 16383 is taken as 16383 (R34). -/
def clampReference (v : Nat) : Nat := min v Config.sampleMax

/-- s_k = S_k − D_k, or 0 where D_k exceeds S_k (R35). -/
def memberSignal (m : MemberPixel) : Nat := m.sample - m.dark

/-- S_k at most the ceiling and s_k at least the floor (R36). -/
def memberValid (b : MergeBounds) (m : MemberPixel) : Bool :=
  m.sample ≤ b.ceiling && b.floor ≤ memberSignal m

/-- L(x) = e × 1233 + TBL[m], from the highest set bit and the ten bits after it (R40). -/
def logCode (x : Nat) : Nat :=
  let e := Nat.log2 x
  let m := (x - 2 ^ e) * 1024 / 2 ^ e
  e * 1233 + logTable.getD m 0

/-- L(den) − L(num), clamped to 0..16383, and 0 when num exceeds den (R42, R43). -/
def densityCode (num den : Nat) : Nat :=
  if den < num then 0 else min (logCode den - logCode num) Config.sampleMax

/-- The first, in plan order, of the members with the smallest dose (R38). -/
def smallestDose : List MemberPixel → Option MemberPixel
  | [] => none
  | m :: rest =>
    match smallestDose rest with
    | none => some m
    | some r => if m.dose ≤ r.dose then some m else some r

/-- The result a ratio gives (R37, R38, R42, R43). -/
def ratioResult (cls : PixelClass) (num den : Nat) : PixelResult :=
  ⟨cls, densityCode num den, decide (den < num), false⟩

/-- The decision for one pixel: the flat test, the valid members, the clipped members, or none (R35 to R39). -/
def decidePixel (b : MergeBounds) (flat flatDose : Nat) (members : List MemberPixel) : PixelResult :=
  if flat < b.flatFloor then ⟨.clippedLow, Config.sampleMax, false, true⟩
  else
    match members.filter (memberValid b) with
    | m :: rest =>
      let valid := m :: rest
      ratioResult (if rest.isEmpty then .single else .merged)
        ((valid.map memberSignal).sum * flatDose) (flat * (valid.map MemberPixel.dose).sum)
    | [] =>
      match smallestDose (members.filter fun m => b.ceiling < m.sample) with
      | some j => ratioResult .clippedHigh (max (b.ceiling - j.dark) 1 * flatDose) (flat * j.dose)
      | none => ⟨.clippedLow, Config.sampleMax, false, false⟩

/-- class × 16384 + code (R44). -/
def densityWord (r : PixelResult) : Nat := classNumber r.cls * 16384 + r.code

/-- An entry of the tone bank; the built-in table has 65535 − 16 × i (R45). -/
def toneValue (t : ToneTable) (i : Nat) : Nat :=
  match t with
  | .builtIn => 65535 - 16 * i
  | .host values => values.getD i 0

/-- TONE[code div 4] (R45). -/
def positive16 (t : ToneTable) (code : Nat) : Nat := toneValue t (code / 4)

/-- G − D_g exceeds the threshold (R47). -/
def maskBit (sample dark threshold : Nat) : Bool := threshold < sample - dark

/-- Eight mask bits in a byte, the first in the least significant bit (R48). -/
def packMask : Nat → List Bool → List Byte
  | 0, _ => []
  | n + 1, bits => BitVec.ofNat 8 (bitsNat (bits.take 8)) :: packMask n (bits.drop 8)

/-- One pixel added to the tile statistics (R53, R54). -/
def countPixel (st : TileStats) (r : PixelResult) : TileStats :=
  let st := { st with overBright := st.overBright + r.overBright.toNat,
                      referenceDefect := st.referenceDefect + r.referenceDefect.toNat }
  match r.cls with
  | .merged =>
    { st with merged := st.merged + 1, densityMin := min st.densityMin r.code,
              densityMax := max st.densityMax r.code }
  | .single =>
    { st with single := st.single + 1, densityMin := min st.densityMin r.code,
              densityMax := max st.densityMax r.code }
  | .clippedHigh => { st with clippedHigh := st.clippedHigh + 1 }
  | .clippedLow => { st with clippedLow := st.clippedLow + 1 }

/-- The statistics as a merge begins (R32, R54). -/
def startStats : TileStats := { TileStats.zero with densityMin := Config.sampleMax }

/-- A member's row: samples, darks and its dose. -/
structure MemberRow where
  samples : List Nat
  darks : List Nat
  dose : Nat
  deriving DecidableEq, Repr

/-- A member's reading at the head of its row. -/
def MemberRow.pixel (m : MemberRow) : MemberPixel :=
  ⟨m.samples.headD 0, clampReference (m.darks.headD 0), m.dose⟩

/-- The rest of a member's row. -/
def MemberRow.next (m : MemberRow) : MemberRow := { m with samples := m.samples.tail, darks := m.darks.tail }

/-- The decisions of a row, pixel by pixel over the flat's values (R35 to R39, R50). -/
def decideRow (b : MergeBounds) (flatDose : Nat) : List Nat → List MemberRow → List PixelResult
  | [], _ => []
  | f :: rest, members =>
    decidePixel b (clampReference f) flatDose (members.map MemberRow.pixel) ::
      decideRow b flatDose rest (members.map MemberRow.next)

/-- The mask bits of a row (R47). -/
def maskRow (threshold : Nat) (samples darks : List Nat) : List Bool :=
  List.zipWith (fun g d => maskBit g (clampReference d) threshold) samples darks

/-- Output position i holds the pixel of column i, or of column 4095 − i under mirror (R48). -/
def mirrored {α : Type} (mirror : Bool) (row : List α) : List α := if mirror then row.reverse else row

/-- A DENSITY row's bytes (R44, R48). -/
def densityBytes (mirror : Bool) (results : List PixelResult) : List Byte :=
  (mirrored mirror results).flatMap fun r => leBytes 2 (densityWord r)

/-- A positive row's bytes: POSITIVE8 at width 8, POSITIVE16 at any other (R45, R46, R48). -/
def positiveBytes (mirror : Bool) (width : Nat) (tone : ToneTable) (results : List PixelResult) : List Byte :=
  (mirrored mirror results).flatMap fun r =>
    if width = 8 then [BitVec.ofNat 8 (positive16 tone r.code / 256)] else leBytes 2 (positive16 tone r.code)

/-- A MASK row's bytes (R48). -/
def maskBytes (mirror : Bool) (bits : List Bool) : List Byte :=
  packMask (bits.length / 8) (mirrored mirror bits)

end Sys2Proof.Machine
end

