-- ==== Sys2Proof/Machine/MergeOps.lean ====
section
/-! DEFINITION. The Merge Engine: starting a tile, its rows, its end (R32, R33, R49 to R54). -/

namespace Sys2Proof.Machine

def bankOf (s : State) (n : Nat) : ToneBank := if n = 0 then s.walker.bank0 else s.walker.bank1

/-- Every cache entry the ACTIVE order holds is READY (R32). -/
def holdsReady (s : State) : Bool :=
  s.walker.active.any fun a => a.holds.all fun h => (entryAt s h.entry).state = .ready

/-- Every slot of the tile is FULL (R32). -/
def tileFull (s : State) (t : MergeTile) : Bool := (tileSlots t).all fun n => (slotAt s n).state = .full

/-- The four start conditions of the head tile (R32). -/
def mergeDue (s : State) (p : MergeParams) (t : MergeTile) : Bool :=
  tileFull s t && holdsReady s && (bankOf s p.bank).state = .loaded

/-- MERGING, or HELD where HOLD is raised (R32, R51). -/
def heldPhase (hold : Bool) : MergePhase := if hold then .held else .merging

/-- The merge of the head tile begins (R32). -/
def beginMerge (t : MergeTile) (s : State) : State :=
  modMerge (fun m => { m with phase := heldPhase s.writer.hold, row := 0, stats := startStats })
    (moveSlots [.full] .merging (tileSlots t) s)

/-- A start whose conditions hold, or HELD once HOLD is released (R33, R51). -/
def mergeAdvance (s : State) : Option State :=
  match s.merge.phase, s.merge.params, s.merge.queue with
  | .waiting, some p, t :: _ => if mergeDue s p t then some (beginMerge t s) else none
  | .held, _, _ =>
    if s.writer.hold then none else some (modMerge (fun m => { m with phase := .merging }) s)
  | _, _, _ => none

/-- A member's row: its samples from its slot, its dark's row from the cache (R34). -/
def memberRow (s : State) (row slot : Nat) (m : MergeMember) : MemberRow :=
  ⟨rowValues s (slotBase slot) row, rowValues s (entryBase m.dark) row, m.dose⟩

/-- The decisions of the head tile's row (R34 to R44). -/
def rowResults (s : State) (p : MergeParams) (t : MergeTile) : List PixelResult :=
  decideRow ⟨p.floor, p.ceiling, p.flatFloor⟩ p.flatDose (rowValues s (entryBase p.flat) s.merge.row)
    (List.zipWith (memberRow s s.merge.row) t.slots p.members)

/-- The mask bits of the head tile's row; none without a dark-field member (R47). -/
def rowMask (s : State) (p : MergeParams) (t : MergeTile) : List Bool :=
  match p.darkfield, t.darkSlot with
  | some (dark, threshold), some slot =>
    maskRow threshold (rowValues s (slotBase slot) s.merge.row) (rowValues s (entryBase dark) s.merge.row)
  | _, _ => []

/-- The row entry: one row of every plane produced (R44 to R49). -/
def rowEntry (s : State) (p : MergeParams) (t : MergeTile) (results : List PixelResult) (mask : List Bool) :
    RowEntry where
  tile := t.tile
  row := s.merge.row
  density := if p.density then densityBytes p.mirror results else []
  positive := if p.positive then positiveBytes p.mirror p.width (bankOf s p.bank).table results else []
  mask := if p.mask then maskBytes p.mirror mask else []

/-- The row's pixels added to the statistics (R53, R54). -/
def countRow (st : TileStats) (results : List PixelResult) (mask : List Bool) : TileStats :=
  let counted := results.foldl countPixel st
  { counted with maskSet := counted.maskSet + (mask.filter id).length }

def isRowEntry : QueueItem → Bool
  | .row _ => true
  | _ => false

/-- The level of the row queue: its row entries (R111). -/
def queueLevel (q : List QueueItem) : Nat := (q.filter isRowEntry).length

/-- A row joins the row queue; HOLD is raised when it brings the level to 48 (R111). -/
def placeRow (e : RowEntry) (s : State) : State :=
  modWriter (fun w =>
    let queue := w.queue ++ [.row e]
    { w with queue := queue, hold := w.hold || queueLevel queue = Config.holdRaise }) s

/-- Row 4095 placed: the end mark with the statistics, the slots FREE, the tile off the queue (R52); the current row is
0 until the next tile begins (log 40). -/
def endMerge (t : MergeTile) (stats : TileStats) (s : State) : State :=
  let marked := modWriter (fun w =>
    { w with queue := w.queue ++ [.endMark ⟨t.tile, t.x, t.y, t.retakes, stats⟩] }) s
  modMerge (fun m =>
      { m with
        queue := m.queue.tail
        phase := if m.queue.tail.isEmpty then .idle else .waiting
        row := 0
        stats := .zero })
    (moveSlots [.merging] .free (tileSlots t) marked)

/-- ROW_COMPUTED: the row is placed and counted, and the next row is examined against HOLD (R50, R51, R52). -/
def rowComputed (s : State) : State :=
  match s.merge.phase, s.merge.params, s.merge.queue with
  | .merging, some p, t :: _ =>
    let results := rowResults s p t
    let mask := rowMask s p t
    let stats := countRow s.merge.stats results mask
    let placed := placeRow (rowEntry s p t results mask) s
    if s.merge.row + 1 = Config.frameRows then endMerge t stats placed
    else
      modMerge (fun m => { m with phase := heldPhase placed.writer.hold, row := m.row + 1, stats := stats }) placed
  | _, _, _ => s

end Sys2Proof.Machine
end

