-- ==== Sys2Proof/Machine/WriterOps.lean ====
section
/-! DEFINITION. The Tile Writer: activation, pools, scans and takes, rows, publication, the end of an order (R101 to
R121). -/

namespace Sys2Proof.Machine

/-! ## Planes -/

def planeRecord (w : Writer) : Plane → PlaneRecord
  | .density => w.density
  | .positive => w.positive
  | .mask => w.mask

def modPlane (plane : Plane) (f : PlaneRecord → PlaneRecord) (s : State) : State :=
  modWriter (fun w =>
    match plane with
    | .density => { w with density := f w.density }
    | .positive => { w with positive := f w.positive }
    | .mask => { w with mask := f w.mask }) s

/-- The planes an order produces, in writing order (R112). -/
def planesProduced (p : OutputParams) : List Plane :=
  (if p.density then [Plane.density] else []) ++ (if p.positive then [Plane.positive] else []) ++
    (if p.mask then [Plane.mask] else [])

def planeBytes (e : RowEntry) : Plane → List Byte
  | .density => e.density
  | .positive => e.positive
  | .mask => e.mask

/-- No extent is open (R120). -/
def noExtentOpen (w : Writer) : Bool :=
  w.density.current.isNone && w.positive.current.isNone && w.mask.current.isNone

/-- Every plane record as at the start of a tile: no current extent, no fallback (R106, R112, R115). -/
def clearPlanes (w : Writer) : Writer := { w with density := .clear, positive := .clear, mask := .clear }

def setTask (t : WriterTask) (s : State) : State := modWriter (fun w => { w with task := t }) s

/-! ## Activation (R102, R108) -/

/-- The capture position of a tile, as its record gives it. -/
def recordPosition (p : OutputParams) (tile : Nat) : Nat × Nat :=
  tilePosition p.nx p.originX p.originY p.stepX p.stepY tile

def recordFields (p : OutputParams) (tile retakes : Nat) (density positive mask : PlaneRecord) : List Byte :=
  let place := recordPosition p tile
  tileFields p.nx tile place.1 place.2 p.tag retakes density positive mask

def recordAddress (p : OutputParams) (tile : Nat) : Nat := p.recordArea + 128 * tile

/-- A PENDING record: bytes 64..127, then 4..63, then the state (R102, R205). -/
def pendingRequests (p : OutputParams) (tile : Nat) : List Request :=
  let address := recordAddress p tile
  [writeRequest (address + 64) (zeroBytes 64) .pendingRecord,
    writeRequest (address + 4) (recordFields p tile 0 .clear .clear .clear ++ zeroBytes 4) .pendingRecord,
    writeRequest address (leBytes 4 tilePending) .pendingRecord]

def gridTiles (p : OutputParams) : List Nat := List.range (p.nx * p.ny)

/-- The Tile Writer takes the output parameters: its pieces for the order cleared, every record PENDING, the
descriptor's read (R102); its phase stays IDLE meanwhile (log 42). -/
def writerActivate (p : OutputParams) (descriptor : Nat) (s : State) : State :=
  let cleared := modWriter (fun w =>
    { clearPlanes w with
      params := some p
      nextList := 0
      finished := []
      tile := none
      captureEnded := false
      interrupted := none
      task := .activating (if descriptor = 0 then none else some s.nextOp) }) (useOp s)
  let pending := presentWriter ((gridTiles p).flatMap (pendingRequests p)) cleared
  if descriptor = 0 then pending
  else presentWriter [readRequest descriptor 64 (.descriptor s.nextOp)] pending

/-- The pool as a descriptor gives it: held dry when its count, base or range is out of range; a take index at or
above the count is 0 (R108). -/
def reservedPool (s : State) (descriptor : Nat) (bytes : List Byte) : ReservedPool :=
  let base := fieldNat bytes 0 8
  let count := fieldNat bytes 8 4
  let take := fieldNat bytes 12 4
  ⟨descriptor, base, count, if count ≤ take then 0 else take,
    count < 16 || 4096 < count || base % 64 ≠ 0 || !inWindow s base (16 * count)⟩

/-- The descriptor has been read (R108). -/
def descriptorRead (op address : Nat) (data : List Byte) (s : State) : State :=
  if s.writer.task = .activating (some op) then
    modWriter (fun w =>
      { w with
        task := .activating none
        params := w.params.map fun p => { p with reserved := some (reservedPool s address data) } }) s
  else s

/-- The descriptor could not be read (R108). -/
def descriptorFailed (op : Nat) (s : State) : State :=
  if s.writer.task = .activating (some op) then failActive .memoryError (setTask (.activating none) s) else s

/-- The PENDING records and the descriptor are done (R102). -/
def activationDone (s : State) : Bool :=
  s.port.writerRequests.all fun r =>
    match r.purpose with
    | .pendingRecord => false
    | .descriptor _ => false
    | _ => true

/-! ## Pools (R103 to R106) -/

/-- Base, entry count and take index of a pool. -/
def poolOf (s : State) (reserved : Bool) : Nat × Nat × Nat :=
  match reserved, s.writer.params.bind OutputParams.reserved with
  | true, some r => (r.base, r.count, r.take)
  | _, _ =>
    ((s.port.settings.map Settings.poolBase).getD 0, (s.port.settings.map Settings.poolCount).getD 0,
      s.writer.commonTake)

/-- The reserved pool is scanned first: one is there, not held dry, and the plane has not fallen back (R106, R108). -/
def scansReserved (s : State) (plane : Plane) : Bool :=
  match s.writer.params.bind OutputParams.reserved with
  | some r => !r.dry && !(planeRecord s.writer plane).fallback
  | none => false

/-- A scan begins at the pool's take index (R104). -/
def beginScan (planes : List Plane) (reserved : Bool) (s : State) : State :=
  let (base, count, take) := poolOf s reserved
  presentWriter [readRequest (base + 16 * take) 16 (.poolEntry s.nextOp)]
    (setTask (.scanning planes ⟨s.nextOp, reserved, take, count - 1⟩) (useOp s))

/-- The take for a plane: the capacity first, then the scans (R105, R106). -/
def beginTake (plane : Plane) (rest : List Plane) (p : OutputParams) (s : State) : State :=
  if p.capacity ≤ s.writer.nextList then failActive .resultSpace s
  else beginScan (plane :: rest) (scansReserved s plane) s

/-- Every pool scanned is dry: the dry wait starts, or goes on with its timer running from its start (R109). -/
def dryPools (planes : List Plane) (s : State) : State :=
  let dry := (s.port.settings.map Settings.dry).getD 0
  let recheck := (s.port.settings.map Settings.recheck).getD 0
  modWriter (fun w =>
    { w with
      task := .dryWait planes
      phase := .dry
      dryTimer := some (w.dryTimer.getD dry)
      recheckTimer := some recheck }) s

/-- The address test of a FREE entry (R103). -/
def extentGood (s : State) (address size : Nat) : Bool :=
  address % Config.extentUnit = 0 && 1 ≤ size && size ≤ 4096 && inWindow s address (size * Config.extentUnit)

/-- The entry found is taken: the list entry, TAKEN, the take index, in this order (R105). -/
def presentTake (plane : Plane) (rest : List Plane) (scan : Scan) (p : OutputParams) (bytes : List Byte)
    (s : State) : State :=
  let (base, count, _) := poolOf s scan.reserved
  let entry := base + 16 * scan.index
  let size := fieldNat bytes 2 2
  let address := fieldNat bytes 8 8
  let next := if scan.index + 1 = count then 0 else scan.index + 1
  let indexAddress :=
    match scan.reserved, p.reserved with
    | true, some r => r.descriptor + 12
    | _, _ => anchorField s 264
  let list := listEntry entry address size (planeCode p.wide plane) (s.writer.tile.getD 0)
    (BitVec.ofNat 32 (fieldNat bytes 4 4))
  presentWriter
    [writeRequest (p.listArea + 32 * s.writer.nextList) list .takeListed,
      writeRequest entry (leBytes 2 2) .takeMarked,
      writeRequest indexAddress (leBytes 4 next) .takeIndexed]
    (modWriter (fun w =>
      { w with
        phase := .taking
        dryTimer := none
        recheckTimer := none
        task := .taking (plane :: rest) ⟨scan.reserved, next, ⟨w.nextList, address, size, 0⟩, false⟩ }) s)

/-- A FREE entry that fails the address test: REJECTED, and the count (R104). -/
def rejectEntry (entry : Nat) (s : State) : State :=
  let counted := modWriter (fun w => { w with rejected := w.rejected + 1 }) s
  presentWriter
    [writeRequest entry (leBytes 2 3) .poolWrite,
      writeRequest (anchorField s 268) (leBytes 4 counted.writer.rejected.toNat) .poolWrite]
    counted

/-- The scan goes on with the next entry, or ends with the pool dry: the common pool follows the reserved one (R104,
R106). -/
def scanOn (planes : List Plane) (scan : Scan) (s : State) : State :=
  let (base, count, _) := poolOf s scan.reserved
  if scan.left = 0 then
    if scan.reserved then beginScan planes false s else dryPools planes s
  else
    let next := if scan.index + 1 = count then 0 else scan.index + 1
    presentWriter [readRequest (base + 16 * next) 16 (.poolEntry s.nextOp)]
      (setTask (.scanning planes ⟨s.nextOp, scan.reserved, next, scan.left - 1⟩) (useOp s))

/-- A pool entry has been read (R104). -/
def poolEntryRead (op : Nat) (data : List Byte) (s : State) : State :=
  match s.writer.task, s.writer.params with
  | .scanning (plane :: rest) scan, some p =>
    if scan.op ≠ op then s
    else if fieldNat data 0 2 ≠ 1 then scanOn (plane :: rest) scan s
    else if extentGood s (fieldNat data 8 8) (fieldNat data 2 2) then presentTake plane rest scan p data s
    else scanOn (plane :: rest) scan (rejectEntry ((poolOf s scan.reserved).1 + 16 * scan.index) s)
  | _, _ => s

/-- A pool entry could not be read (R104). -/
def poolEntryFailed (op : Nat) (s : State) : State :=
  match s.writer.task with
  | .scanning _ scan => if scan.op = op then failActive .memoryError s else s
  | _ => s

/-- The first write of a take is accepted: it is completed whatever comes (R105). -/
def takeFirstAccepted (s : State) : State :=
  match s.writer.task with
  | .taking planes t => setTask (.taking planes { t with listed := true }) s
  | _ => s

/-- The pool's take index moves on (R105). -/
def moveTakeIndex (t : Take) (w : Writer) : Writer :=
  if t.reserved then
    { w with params := w.params.map fun p =>
      { p with reserved := p.reserved.map fun r => { r with take := t.nextIndex } } }
  else { w with commonTake := t.nextIndex }

/-- The plane has the extent as its current one; a take from the common pool of an order with a reserved pool sets the
fallback flag (R105, R106, R108). -/
def giveExtent (t : Take) (hasReserved : Bool) (r : PlaneRecord) : PlaneRecord :=
  { r with
    current := some t.extent
    fallback := r.fallback || (hasReserved && !t.reserved)
    first := if r.count = 0 then t.extent.listIndex else r.first
    count := r.count + 1 }

/-- The third write of a take is over: the take is complete (R105). -/
def completeTake (s : State) : State :=
  match s.writer.task with
  | .taking (plane :: rest) t =>
    let hasReserved := (s.writer.params.bind OutputParams.reserved).isSome
    let indexed := modWriter (fun w =>
      { moveTakeIndex t w with
        nextList := w.nextList + 1
        phase := if w.phase = .discarding then .discarding else .writing
        task := if w.phase = .discarding then .none else .row (plane :: rest) false }) s
    modPlane plane (giveExtent t hasReserved) indexed
  | _ => s

/-! ## Closing (R113) -/

/-- The bytes used and the closed flag of a list entry, as one group (R113, R205). -/
def closeRequest (p : OutputParams) (e : Extent) : Request :=
  writeRequest (p.listArea + 32 * e.listIndex + 24) (leBytes 4 e.used ++ leBytes 1 1) .extentClose

/-- A plane's current extent is closed: the plane has none, and its bytes are the last extent's (R113, R116). -/
def closePlane (p : OutputParams) (plane : Plane) (s : State) : State :=
  match (planeRecord s.writer plane).current with
  | none => s
  | some e =>
    presentWriter [closeRequest p e] (modPlane plane (fun r => { r with current := none, last := e.used }) s)

/-- The current extent of every plane is closed, in the order density, positive, mask (R115, R119, log 59). -/
def closePlanes (p : OutputParams) (s : State) : State :=
  (planesProduced p).foldl (fun s plane => closePlane p plane s) s

/-! ## Rows (R112) -/

/-- The head entry leaves the queue; HOLD is released at a level of 16 (R111, R112). The phase stays WRITING, be the
queue empty (log 60). -/
def popRow (w : Writer) : Writer :=
  let queue := w.queue.tail
  { w with queue := queue, hold := w.hold && Config.holdRelease < queueLevel queue, task := .none }

/-- A plane's row is written into its current extent (R112). -/
def presentPlane (plane : Plane) (rest : List Plane) (e : Extent) (row : RowEntry) (s : State) : State :=
  presentWriter (writeSpan (e.address + e.used) (planeBytes row plane) .rowPart (.planeRow plane))
    (setTask (.row (plane :: rest) true) s)

/-- A plane's row has been accepted: the bytes used go up, a full extent is closed (R112, R113). -/
def planeRowAccepted (plane : Plane) (s : State) : State :=
  match s.writer.task, s.writer.params, s.writer.queue, (planeRecord s.writer plane).current with
  | .row (_ :: rest) _, some p, .row row :: _, some e =>
    let used := e.used + (planeBytes row plane).length
    let written := modPlane plane (fun r => { r with current := some { e with used := used } }) s
    let closed := if used = e.size * Config.extentUnit then closePlane p plane written else written
    if rest.isEmpty then modWriter popRow closed else setTask (.row rest false) closed
  | _, _, _, _ => s

/-- The rows of a tile begin: the tile in writing, the fallback flags clear (R106, R112). -/
def beginRow (tile : Nat) (p : OutputParams) (s : State) : State :=
  modWriter (fun w =>
    let w := if w.tile = some tile then w else { clearPlanes w with tile := some tile }
    { w with phase := .writing, task := .row (planesProduced p) false }) s

/-! ## Tile records (R115, R116, R119) -/

/-- What a tile's record says of its planes: those of the tile in writing, else 0 (R116, R119). -/
def recordPlanes (w : Writer) (tile : Nat) : PlaneRecord × PlaneRecord × PlaneRecord :=
  if w.tile = some tile then (w.density, w.positive, w.mask) else (.clear, .clear, .clear)

/-- A record's two groups and its state (R205). -/
def recordRequests (p : OutputParams) (mark : TileMark) (stats : TileStats)
    (planes : PlaneRecord × PlaneRecord × PlaneRecord) (state : Nat) (part last : Purpose) : List Request :=
  let address := recordAddress p mark.tile
  let fields := recordFields p mark.tile mark.retakes planes.1 planes.2.1 planes.2.2
  [writeRequest (address + 64) (statsBytes stats) part, writeRequest (address + 4) fields part,
    writeRequest address (leBytes 4 state) last]

/-- The end mark at the head: extents closed, fields, then PUBLISHED (R115). The phase stays as it is until PUBLISHED is
accepted (log 60). -/
def publishTile (mark : TileMark) (p : OutputParams) (s : State) : State :=
  let closed := closePlanes p s
  presentWriter
    (recordRequests p mark mark.stats (recordPlanes closed.writer mark.tile) tilePublished .publicationPart
      (.published mark.tile))
    (setTask .publishing closed)

/-- The mark leaves, the tile joins the finished tiles, no tile is in writing (R115, R119). The fallback flags are
cleared here already (log 66). -/
def finishTile (tile : Nat) (w : Writer) : Writer :=
  { clearPlanes w with
    queue := w.queue.tail
    finished := w.finished ++ [tile]
    tile := none
    task := .none }

/-- A tile's publication is counted, and the anchor's count presented (R117). -/
def countPublished (tileEnd : Bool) (s : State) : State :=
  let counted := modWalker (fun w => { w with tilesPublished := w.tilesPublished + 1 })
    (modActive (fun a => { a with published := a.published + 1 }) s)
  presentWalker
    [writeRequest (anchorField s 260) (leBytes 4 counted.walker.tilesPublished.toNat) (.tilesPublished tileEnd)]
    counted

/-- PUBLISHED is accepted: the publication is reported (R115 step 4, R117). -/
def tilePublishedAccepted (tile : Nat) (s : State) : State :=
  match s.writer.task, s.writer.params with
  | .publishing, some p =>
    let done := modWriter (fun w =>
      let w := finishTile tile w
      { w with phase := if w.queue.isEmpty then .idle else .writing }) s
    countPublished p.tileEnd done
  | _, _ => s

/-- A tile met in DISCARDING: its extents closed, its record FAILED with the statistics 0 (R119). The mark leaves and
the tile is finished when these writes are presented (log 65). -/
def failTile (mark : TileMark) (p : OutputParams) (s : State) : State :=
  let closed := if s.writer.tile = some mark.tile then closePlanes p s else s
  modWriter (finishTile mark.tile)
    (presentWriter
      (recordRequests p mark .zero (recordPlanes closed.writer mark.tile) tileFailed .failedRecord .failedRecord)
      closed)

/-- Every row entry at the head is discarded; HOLD is released at a level of 16 (R111, R119). -/
def discardRows (w : Writer) : Writer :=
  let queue := w.queue.dropWhile isRowEntry
  { w with queue := queue, hold := w.hold && Config.holdRelease < queueLevel queue }

/-! ## The end of an order (R120) -/

/-- The records are finished: capture ended, both queues empty, no extent open (R120). -/
def recordsDone (s : State) : Bool :=
  s.writer.captureEnded && s.merge.queue.isEmpty && s.writer.queue.isEmpty && noExtentOpen s.writer

/-- The interrupted tile, where its record is not yet finished (R120). -/
def interruptedLeft (finished : List Nat) (interrupted : Option Nat) : List Nat :=
  interrupted.toList.filter fun t => t ∉ finished

/-- FAILED for the interrupted tile, SKIPPED for every tile not finished, in rising number (R120). -/
def finishRequests (p : OutputParams) (finished : List Nat) (interrupted : Option Nat) : List Request :=
  let failed := interruptedLeft finished interrupted
  let skipped := (gridTiles p).filter fun t => t ∉ finished && t ∉ failed
  (failed.flatMap fun t =>
      recordRequests p ⟨t, 0, 0, 0, .zero⟩ .zero (.clear, .clear, .clear) tileFailed .finishRecord .finishRecord) ++
    skipped.map fun t => writeRequest (recordAddress p t) (leBytes 4 tileSkipped) .finishRecord

/-- FINISHING: the last records are presented, and a tile that ends FAILED is a finished one (R120, R101). -/
def beginFinish (p : OutputParams) (s : State) : State :=
  presentWriter (finishRequests p s.writer.finished s.writer.interrupted)
    (modWriter (fun w =>
      { w with
        phase := .finishing
        finished := w.finished ++ interruptedLeft w.finished w.interrupted
        dryTimer := none
        recheckTimer := none }) s)

/-- The records are reported finished: parameters gone, IDLE (R120). -/
def reportFinished (s : State) : State :=
  modActive (fun a => { a with workEnded := true })
    (modWriter (fun w =>
      { clearPlanes w with
        params := none, phase := .idle, task := .none, tile := none, captureEnded := false, interrupted := none }) s)

/-! ## The next transition -/

/-- What the head of the row queue asks for with nothing under way (R111, R112, R115, R119). -/
def headAdvance (p : OutputParams) (s : State) : Option State :=
  match s.writer.queue with
  | .row e :: _ =>
    if s.writer.phase = .discarding then some (modWriter discardRows s) else some (beginRow e.tile p s)
  | .endMark mark :: _ =>
    if s.writer.phase = .discarding then some (failTile mark p s) else some (publishTile mark p s)
  | .failureMark mark :: _ => some (failTile mark p s)
  | [] => if recordsDone s then some (beginFinish p s) else none

def writerAdvance (s : State) : Option State :=
  match s.writer.params with
  | none => none
  | some p =>
    if s.writer.phase = .finishing then
      if s.port.writerRequests.isEmpty then some (reportFinished s) else none
    else
      match s.writer.task with
      | .activating none => if activationDone s then some (setTask .none s) else none
      | .row (plane :: rest) false =>
        match (planeRecord s.writer plane).current, s.writer.queue with
        | some e, .row row :: _ => some (presentPlane plane rest e row s)
        | none, _ =>
          some (beginTake plane rest p (modWriter (fun w => { w with phase := .taking }) s))
        | some _, _ => none
      | .row [] _ => some (modWriter popRow s)
      | .none => headAdvance p s
      | _ => none

/-- An examination of the dry wait: the whole take again; one under way absorbs it (R109). -/
def examineDry (s : State) : State :=
  match s.writer.task, s.writer.params with
  | .dryWait (plane :: rest), some p => beginTake plane rest p s
  | _, _ => s

/-- The recheck interval of a dry wait runs out: an examination, and the interval anew (R109). -/
def dryRecheck (s : State) : State :=
  match s.writer.recheckTimer with
  | none => s
  | some _ =>
    let recheck := (s.port.settings.map Settings.recheck).getD 0
    examineDry (modWriter (fun w => { w with recheckTimer := some recheck }) s)

/-- The dry limit runs out (R110). -/
def dryExpired (s : State) : State :=
  if s.writer.dryTimer.isSome then failActive .outputStarved (modWriter (fun w => { w with dryTimer := none }) s) else s

end Sys2Proof.Machine
end

