-- ==== Sys2Proof/Machine/WalkerOps.lean ====
section
/-! DEFINITION. The Order Walker: the walk (R125 to R129), the take and the setup (R130 to R136), cancel samples (R137,
R138), activation (R139), the end of an order (R142 to R146). -/

namespace Sys2Proof.Machine

/-- The recheck interval in force. -/
def recheckLimit (s : State) : Nat := (s.port.settings.map Settings.recheck).getD 0

/-! ## Examinations -/

/-- An examination ends as a wait: WAITING, the recheck timer started (R125). -/
def endAsWait (failures : Nat) (s : State) : State :=
  modWalker (fun w =>
    { w with
      phase := .waiting, examination := none, readFailures := failures, recheckTimer := some (recheckLimit s) }) s

/-- An examination begins by reading the candidate's address: the chain head field of the anchor block, or the next
field of the walk position (R125 step 1). -/
def beginExamination (s : State) : State :=
  let examine := fun address =>
    presentWalker [readRequest address 8 (.chainLink s.nextOp)]
      (modWalker (fun w => { w with examination := some s.nextOp, recheckTimer := none }) (useOp s))
  match s.walker.position with
  | none => examine (anchorField s 24)
  | some p => if inWindow s p 64 then examine (p + 16) else endAsWait s.walker.readFailures s

/-- The candidate address has been read: what the read returned, at the chain head too, where the copy that the
settings hold is not asked (R125 steps 1 to 4, R179, log 47). -/
def chainLinkRead (op : Nat) (data : List Byte) (s : State) : State :=
  if s.walker.examination ≠ some op then s
  else
    let candidate := leNat data
    if candidate = 0 then endAsWait 0 s
    else if candidate % 64 ≠ 0 || !inWindow s candidate 64 then endAsWait s.walker.readFailures s
    else presentWalker [readRequest candidate 64 (.chainHeader op candidate)] s

/-- A chain read failed: a wait, the count up by one; the third in a row faults the run (R128). -/
def chainReadFailed (op : Nat) (s : State) : State :=
  if s.walker.examination ≠ some op then s
  else
    let waited := endAsWait (s.walker.readFailures + 1) s
    if Config.chainReadLimit ≤ s.walker.readFailures + 1 then enterFaulted .chainRead waited else waited

/-- A candidate POSTED with cancel set is withdrawn before the take, and the examination goes on afresh (R129). -/
def withdrawCandidate (address : Nat) (s : State) : State :=
  presentWalker
    [writeRequest (address + 24) (finalGroup .none .none .none 0 0 0 0) .orderWrite,
      writeRequest address (leBytes 4 stateWithdrawn) .withdrawnState]
    (modWalker (fun w => { w with position := some address, examination := none, readFailures := 0 }) s)

/-- The order as the take leaves it. -/
def newTaken (number address : Nat) (header : List Byte) : TakenOrder where
  number := number
  address := address
  kind := orderKindOf (fieldNat header 4 4)
  tag := BitVec.ofNat 32 (fieldNat header 12 4)
  setup := .reading
  reading := none
  bodyPieces := []
  bodyAwaited := 0
  body := none
  clamps := .none
  roles := []
  directory := []
  toResolve := []
  holds := []
  bank := none
  primary := .none
  secondary := .none
  ending := false
  recheckSample := none
  activationSample := none

/-- The setup's first three steps: kind, record address, body read (R130). -/
def beginSetup (o : TakenOrder) (s : State) : State :=
  if o.kind = .unknown then failTaken .badOrder s
  else if !inWindow s o.address (recordLength o.kind) then failTaken .address s
  else
    let reads := readSpan (o.address + 64) (recordLength o.kind - 64) fun offset => .orderBody o.number offset
    presentWalker reads (modTaken (fun o => { o with bodyAwaited := reads.length }) s)

/-- The take: TAKEN written, the walk position moved, the walk BARRED, the recheck timer started, the setup begun
(R130). -/
def takeOrder (address : Nat) (header : List Byte) (s : State) : State :=
  let o := newTaken s.nextOp address header
  let taken := modWalker (fun w =>
    { w with
      position := some address
      phase := .barred
      examination := none
      readFailures := 0
      recheckTimer := some (recheckLimit s)
      taken := some o }) (useOp s)
  beginSetup o (presentWalker [writeRequest address (leBytes 4 stateTaken) .orderWrite] taken)

/-- The candidate's header has been read (R125 steps 4 and 5). -/
def chainHeaderRead (op address : Nat) (data : List Byte) (s : State) : State :=
  if s.walker.examination ≠ some op then s
  else if fieldNat data 0 4 ≠ 1 then endAsWait 0 s
  else if fieldNat data 8 4 ≠ 0 then withdrawCandidate address s
  else takeOrder address data s

/-! ## The setup -/

/-- The body is whole: clamps, validation, address fields, in that order; then RESOLVING begins with the directory (R130
steps 4 to 7). -/
def setupBody (o : TakenOrder) (bytes : List Byte) (s : State) : State :=
  let raw := parseBody o.kind bytes
  let body := clampBody raw
  let clamped := modTaken (fun o => { o with body := some body, clamps := clampFlagsOf raw, bodyPieces := [] }) s
  if bodyInvalid body then failTaken .badOrder clamped
  else if addressesBad s body then failTaken .address clamped
  else
    match body with
    | .service _ => modTaken (fun o => { o with setup := .resolved }) clamped
    | _ =>
      modTaken (fun o =>
        { o with setup := .resolving, roles := directoryRoles body, toResolve := resolveList body }) clamped

/-- A part of the body has been read. -/
def bodyRead (number offset : Nat) (data : List Byte) (s : State) : State :=
  match s.walker.taken with
  | none => s
  | some o =>
    if o.number ≠ number || o.ending then s
    else
      let pieces := insertPiece ⟨offset, data⟩ o.bodyPieces
      let landed := modTaken (fun o => { o with bodyPieces := pieces, bodyAwaited := o.bodyAwaited - 1 }) s
      if o.bodyAwaited ≤ 1 then setupBody o (pieceBytes pieces) landed else landed

/-- A read of the body failed (R130 step 3). -/
def bodyFailed (number : Nat) (s : State) : State :=
  match s.walker.taken with
  | none => s
  | some o => if o.number = number then failTaken .memoryError s else s

/-- An entry read or already known meets its role, or the order fails NO_REFERENCE (R79, R91, R134). -/
def checkRole (role : DirectoryRole) (e : DirectoryEntry) (s : State) : State :=
  if entryPasses s role.index e role.test then modTaken (fun o => { o with roles := o.roles.tail }) s
  else failTaken .noReference s

/-- The next index of the order: beyond the count it fails, known it is tested, else its entry is read (R79). -/
def nextRole (o : TakenOrder) (role : DirectoryRole) (s : State) : State :=
  let count := (s.port.settings.map Settings.directoryCount).getD 0
  if count ≤ role.index then failTaken .noReference s
  else
    match directoryFind o.directory role.index with
    | some e => checkRole role e s
    | none =>
      let address := (s.port.settings.map Settings.directory).getD 0 + 64 * role.index
      presentCache [readRequest address 64 (.directoryEntry s.nextOp)]
        (modTaken (fun o => { o with reading := some s.nextOp }) (useOp s))

/-- A directory entry has been read for the TAKEN order (R79). -/
def directoryRead (op : Nat) (data : List Byte) (s : State) : State :=
  match s.walker.taken with
  | none => s
  | some o =>
    match o.roles with
    | role :: _ =>
      if o.reading ≠ some op then s
      else
        modTaken (fun o =>
          { o with reading := none, directory := o.directory ++ [⟨role.index, parseDirectory data⟩] }) s
    | [] => s

/-- A directory entry could not be read (R79). -/
def directoryFailed (op : Nat) (s : State) : State :=
  match s.walker.taken with
  | none => s
  | some o => if o.reading = some op then failTaken .memoryError s else s

/-! ## The tone table (R135) -/

def modBank (n : Nat) (f : ToneBank → ToneBank) (s : State) : State :=
  modWalker (fun w => if n = 0 then { w with bank0 := f w.bank0 } else { w with bank1 := f w.bank1 }) s

/-- The lower-numbered FREE bank. -/
def freeBank (w : Walker) : Nat := if w.bank0.state = .free then 0 else 1

/-- A PLATE order takes a tone bank: the built-in table at once, a host table by its reads (R135). -/
def takeBank (o : TakenOrder) (address : Nat) (s : State) : State :=
  let bank := freeBank s.walker
  let owned := modTaken (fun o => { o with bank := some bank }) s
  if address = 0 then modBank bank (fun _ => ⟨.loaded, some o.number, .builtIn, [], 0⟩) owned
  else
    let reads := readSpan address 8192 fun offset => .tonePiece o.number offset
    modWalker (fun w => { w with toneReads := w.toneReads ++ reads })
      (modBank bank (fun b => ⟨.loading, some o.number, b.table, [], reads.length⟩) owned)

/-- The last read of a table fills the bank (R135). -/
def bankLanded (piece : Piece) (b : ToneBank) : ToneBank :=
  let pieces := insertPiece piece b.pieces
  if b.awaited ≤ 1 then
    { b with state := .loaded, table := .host (values16 (pieceBytes pieces)), pieces := [], awaited := 0 }
  else { b with pieces := pieces, awaited := b.awaited - 1 }

/-- The bank loads for an order, its load not stopped (R135, R136). -/
def loadsFor (owner : Nat) (b : ToneBank) : Bool := b.state = .loading && b.owner = some owner && 0 < b.awaited

/-- The bank that loads for an order. -/
def loadingBank (owner : Nat) (w : Walker) : Option Nat :=
  if loadsFor owner w.bank0 then some 0 else if loadsFor owner w.bank1 then some 1 else none

/-- Part of a tone table has been read (R135); a load that has stopped takes nothing (R136). -/
def toneRead (owner offset : Nat) (data : List Byte) (s : State) : State :=
  match loadingBank owner s.walker with
  | none => s
  | some n => modBank n (bankLanded ⟨offset, data⟩) s

/-- A tone read failed: the load ends, and its order fails MEMORY_ERROR; a load that has ended fails nothing more
(R135). -/
def toneFailed (owner : Nat) (s : State) : State :=
  match loadingBank owner s.walker with
  | none => s
  | some _ =>
    let stopped := stopLoad owner s
    if s.walker.taken.any fun o => o.number = owner then failTaken .memoryError stopped
    else if activeNumber s = some owner then failActive .memoryError stopped
    else stopped

/-- The setup's next step, level by level: a role, the start of resolution, RESOLVED with the tone bank (R134,
R135). -/
def setupAdvance (s : State) : Option State :=
  match s.walker.taken with
  | none => none
  | some o =>
    if o.ending || o.reading.isSome then none
    else
      match o.setup, o.body with
      | .resolving, some body =>
        match o.roles, o.toResolve with
        | role :: _, _ => some (nextRole o role s)
        | [], [] =>
          let resolved := modTaken (fun o => { o with setup := .resolved }) s
          match body with
          | .plate b => some (takeBank o b.toneTable resolved)
          | _ => some resolved
        | [], _ :: _ => none
      | _, _ => none

/-! ## Cancel samples of the TAKEN order (R137 to R139) -/

/-- The recheck timer runs out: an examination when WAITING, a cancel sample of the TAKEN order, after which the timer
starts anew (R126, R137). -/
def walkRecheck (s : State) : State :=
  match s.walker.recheckTimer with
  | none => s
  | some _ =>
    let stopped := modWalker (fun w => { w with recheckTimer := none }) s
    match s.walker.taken with
    | some o =>
      if o.ending then stopped
      else
        presentWalker [readRequest (o.address + 8) 4 (.cancelTaken s.nextOp)]
          (modTaken (fun o => { o with recheckSample := some s.nextOp }) (useOp stopped))
    | none =>
      if s.walker.phase = .waiting then modWalker (fun w => { w with phase := .examining }) stopped else stopped

/-- A recheck sample of the TAKEN order answered (R137, R138). -/
def takenSampled (op : Nat) (withdraw : Bool) (s : State) : State :=
  match s.walker.taken with
  | none => s
  | some o =>
    if o.recheckSample ≠ some op then s
    else
      let answered := modWalker (fun w => { w with recheckTimer := some (recheckLimit s) })
        (modTaken (fun o => { o with recheckSample := none }) s)
      if withdraw then endTaken .none stateWithdrawn answered else answered

/-- The conditions of activation (R139). -/
def activationDue (s : State) (o : TakenOrder) : Bool :=
  o.setup = .resolved && !o.ending && s.walker.active.isNone &&
    (s.port.runState = .running || s.port.runState = .draining)

/-- The activation sample is asked for (R139). -/
def activationAdvance (s : State) : Option State :=
  match s.walker.taken with
  | none => none
  | some o =>
    if activationDue s o && o.activationSample.isNone then
      some (presentWalker [readRequest (o.address + 8) 4 (.cancelActivation s.nextOp)]
        (modTaken (fun o => { o with activationSample := some s.nextOp }) (useOp s)))
    else none

/-! ## Activation (R139) -/

/-- The output parameters of a PLATE order (R102). -/
def outputParams (o : TakenOrder) (b : PlateBody) : OutputParams where
  order := o.number
  tag := o.tag
  nx := b.nx
  ny := b.ny
  originX := b.originX
  originY := b.originY
  stepX := b.stepX
  stepY := b.stepY
  density := b.density
  positive := b.positive
  wide := b.width ≠ 8
  mask := b.mask
  recordArea := b.recordArea
  listArea := b.listArea
  capacity := b.capacity
  tileEnd := b.tileEnd
  reserved := none

/-- The merge parameters of a PLATE order (R30). -/
def mergeParams (o : TakenOrder) (b : PlateBody) : MergeParams where
  order := o.number
  floor := b.floor
  ceiling := b.ceiling
  flatFloor := b.flatFloor
  members := b.members.map fun m => ⟨m.dose, holdFind o.holds m.dark⟩
  flat := holdFind o.holds b.flatIndex
  flatDose := ((directoryFind o.directory b.flatIndex).map DirectoryEntry.dose).getD 0
  darkfield := b.darkfield.map fun d => (holdFind o.holds d.dark, d.threshold)
  density := b.density
  positive := b.positive
  mask := b.mask
  width := b.width
  mirror := b.mirror
  bank := o.bank.getD 0

/-- The Reference Cache's work for a REFERENCE order (R139 step 3). -/
def referenceWork (o : TakenOrder) (b : ReferenceBody) : ReferenceWork where
  order := o.number
  flat := b.kind = 1
  target := b.target
  darkIndex := b.dark
  darkEntry := if b.kind = 1 then some (holdFind o.holds b.dark) else none
  frames := b.frames
  channel := b.channel
  level := b.level
  step := b.step
  dose := b.dose
  pin := b.pin
  image := ((directoryFind o.directory b.target).map DirectoryEntry.image).getD 0
  stage := .accumulating
  accumulators := none
  accumulated := 0
  frameInHand := none
  captureDone := false
  install := none
  op := 0
  generation := 0
  row := 0
  sum := 0

/-- The order's parameters handed to the blocks before the Plate Controller (R139 steps 1 to 3). -/
def handParameters (o : TakenOrder) (body : OrderBody) (s : State) : State :=
  match body with
  | .plate b =>
    modMerge (fun m => { m with params := some (mergeParams o b) })
      (writerActivate (outputParams o b) b.descriptor s)
  | .reference b => modCache (fun c => { c with work := some (referenceWork o b) }) s
  | .service _ => s

/-- The TAKEN record as the ACTIVE record (R139). -/
def activeOf (o : TakenOrder) (body : OrderBody) : ActiveOrder where
  number := o.number
  address := o.address
  kind := o.kind
  tag := o.tag
  body := body
  clamps := o.clamps
  directory := o.directory
  holds := o.holds
  bank := o.bank
  published := 0
  retakes := 0
  lateEvents := 0
  thickness := 0
  captureEnded := false
  withdrawn := false
  workEnded := false
  slotGroupOut := false
  ending := false
  primary := .none
  secondary := .none

/-- The order becomes ACTIVE: the recheck timer stopped, the order handed on (R139, R137). -/
def activate (o : TakenOrder) (body : OrderBody) (s : State) : State :=
  let active := modWalker (fun w =>
    { w with taken := none, active := some (activeOf o body), recheckTimer := none }) s
  let written := dropWalker takenPurpose active
  let limits := s.port.settings
  plateActivate
    ⟨o.number, o.tag, body, (limits.map Settings.motion).getD 0, (limits.map Settings.frame).getD 0,
      (limits.map Settings.recheck).getD 0, (limits.map Settings.exposure).getD []⟩
    (handParameters o body written)

/-- The activation sample answered: withdrawn, or ACTIVE written (R138, R139). -/
def activationSampled (op : Nat) (withdraw : Bool) (s : State) : State :=
  match s.walker.taken with
  | none => s
  | some o =>
    if o.activationSample ≠ some op then s
    else if withdraw then
      endTaken .none stateWithdrawn (modTaken (fun o => { o with activationSample := none }) s)
    else presentWalker [writeRequest o.address (leBytes 4 stateActive) (.activeState op)] s

/-- The ACTIVE write is accepted: the order becomes ACTIVE and is handed on, so that the PENDING records follow the
ACTIVE write in accept order (R139, log 31). -/
def activeAccepted (op : Nat) (s : State) : State :=
  match s.walker.taken with
  | none => s
  | some o =>
    match o.body with
    | some body => if o.activationSample = some op && !o.ending then activate o body s else s
    | none => s

/-! ## The final write (R143 to R145) -/

/-- The Plate Controller's SHUTDOWN, if it is in one, has been reported ended (R143). -/
def shutdownOver (s : State) : Bool := s.plate.phase ≠ .shutdown || s.plate.shutdownReported

/-- The ACTIVE order is ready for its final state (R143). -/
def finalDue (s : State) (a : ActiveOrder) : Bool :=
  !a.ending && a.captureEnded && a.workEnded && shutdownOver s && !a.slotGroupOut

/-- DONE, WITHDRAWN or FAILED (R144). -/
def finalStateOf (a : ActiveOrder) : Nat :=
  if a.primary ≠ .none then stateFailed else if a.withdrawn then stateWithdrawn else stateDone

/-- The final group of the ACTIVE order; late events as they now stand, tiles and thickness by kind (R142, R144, log
18). -/
def activeGroup (s : State) (a : ActiveOrder) : List Byte :=
  finalGroup a.primary a.secondary a.clamps (if a.kind = .plate then a.published else 0) a.retakes
    s.plate.lateEvents (if a.kind = .service then 0 else a.thickness)

def finalAdvance (s : State) : Option State :=
  match s.walker.active with
  | none => none
  | some a =>
    if finalDue s a then
      some (presentFinal a.address (activeGroup s a) (finalStateOf a) false
        (modActive (fun a => { a with ending := true }) s))
    else none

/-- The banks an order owns become FREE (R135, R144). -/
def freeBanks (owner : Nat) (s : State) : State :=
  let free := fun (b : ToneBank) =>
    if b.owner = some owner then { b with state := .free, owner := none, pieces := [], awaited := 0 } else b
  modWalker (fun w =>
    { w with
      bank0 := free w.bank0
      bank1 := free w.bank1
      toneReads := w.toneReads.filter fun r => !tonePurpose owner r }) s

/-- What every order's final state releases: its holds, its bank, its slots (R144, R87, R77). -/
def releaseOrder (number : Nat) (holds : List CacheHold) (s : State) : State :=
  sweepSlots number (freeBanks number (releaseHolds holds s))

/-- A final state has been written: counted, and the count presented (R145). -/
def countFinished (s : State) : State :=
  let counted := modWalker (fun w => { w with ordersFinished := w.ordersFinished + 1 }) s
  presentWalker [writeRequest (anchorField s 256) (leBytes 4 counted.walker.ordersFinished.toNat) .ordersFinished]
    counted

/-- The TAKEN order's record is discarded (R144). -/
def dropTaken (s : State) : State :=
  match s.walker.taken with
  | none => s
  | some o =>
    modWalker (fun w => { w with taken := none, recheckTimer := none }) (releaseOrder o.number o.holds s)

/-- The ACTIVE order's record is discarded; the Merge Engine drops its parameters, the Plate Controller is IDLE (R144,
R57, R2). -/
def dropActive (s : State) : State :=
  match s.walker.active with
  | none => s
  | some a =>
    plateIdle (modMerge (fun m => { m with params := none })
      (modWalker (fun w => { w with active := none }) (releaseOrder a.number a.holds s)))

/-- The state write of a final write is accepted, or reported failed (R144, R145). -/
def finalStateEnded (fromTaken accepted : Bool) (s : State) : State :=
  let dropped := if fromTaken then dropTaken s else dropActive s
  if accepted then countFinished dropped else dropped

/-- A SERVICE slot's group is accepted, or reported failed (R140). -/
def slotGroupEnded (s : State) : State :=
  modActive (fun a => { a with slotGroupOut := false }) (modPlate (fun p => { p with slotGroupOut := false }) s)

/-! ## The bar (R127) and NUDGE -/

/-- Nothing bars the walk: no TAKEN order, no REFERENCE order ACTIVE (R127). -/
def barLifted (s : State) : Bool := s.walker.taken.isNone && !activeReference s

def walkAdvance (s : State) : Option State :=
  if s.port.runState ≠ .running then none
  else if s.walker.phase = .barred && barLifted s then
    some (modWalker (fun w => { w with phase := .examining }) s)
  else if s.walker.phase = .examining && s.walker.examination.isNone then some (beginExamination s)
  else none

/-- NUDGE at the Order Walker: an examination when WAITING (R126). -/
def nudgeWalk (s : State) : State :=
  if s.walker.phase = .waiting then modWalker (fun w => { w with phase := .examining, recheckTimer := none }) s else s

end Sys2Proof.Machine
end

