-- ==== Sys2Proof/Machine/PortOps.lean ====
section
/-! DEFINITION. The arbiter (R173), what the port sends (R174 to R177), what each requester does when it is told of a
request (R175, R177), and the settling of an event: every transition it makes due, one after another (log 21). -/

namespace Sys2Proof.Machine

/-! ## What follows an acceptance, a failure, or data -/

/-- The write is reported accepted to its requester. -/
def writeAccepted (purpose : Purpose) (s : State) : State :=
  match purpose with
  | .activeState op => activeAccepted op s
  | .finalState fromTaken => finalStateEnded fromTaken true s
  | .withdrawnState => countFinished s
  | .ordersFinished => setCause .orderEnd s
  | .tilesPublished tileEnd => if tileEnd then setCause .tileEnd s else s
  | .slotGroup => slotGroupEnded s
  | .rowWritten op row => rowAccepted op row s
  | .validWritten op => validAccepted op s
  | .planeRow plane => planeRowAccepted plane s
  | .takeListed => takeFirstAccepted s
  | .takeIndexed => completeTake s
  | .published tile => tilePublishedAccepted tile s
  | .zeroGroup => zeroAccepted s
  | .startReport => startReported s
  | .noticeCount => setCause .notice s
  | _ => s

/-- The write is reported failed: its requester drops it and goes on with its sequence (R177). -/
def writeDropped (purpose : Purpose) (s : State) : State :=
  match purpose with
  | .finalState fromTaken => finalStateEnded fromTaken false s
  | .slotGroup => slotGroupEnded s
  | .takeIndexed => completeTake s
  | _ => s

/-- A failed write: run control goes to FAULTED with WRITE_FAILED, and the requester goes on (R177, R115). -/
def writeFailed (purpose : Purpose) (s : State) : State := writeDropped purpose (enterFaulted .writeFailed s)

/-- The data of a read reaches its requester (R175). -/
def readDone (address : Nat) (purpose : Purpose) (data : List Byte) (s : State) : State :=
  match purpose with
  | .chainLink op => chainLinkRead op data s
  | .chainHeader op candidate => chainHeaderRead op candidate data s
  | .orderBody number offset => bodyRead number offset data s
  | .cancelPlate op => sampleAnswered op (leNat data ≠ 0) s
  | .cancelTaken op => takenSampled op (leNat data ≠ 0) s
  | .cancelActivation op => activationSampled op (leNat data ≠ 0) s
  | .tonePiece owner offset => toneRead owner offset data s
  | .directoryEntry op => directoryRead op data s
  | .loadPiece entry op offset => loadRead entry op offset data s
  | .writeBackEntry op => writeBackRead op data s
  | .descriptor op => descriptorRead op address data s
  | .poolEntry op => poolEntryRead op data s
  | .anchorPiece op offset => anchorPieceRead op offset data s
  | _ => s

/-- A read is reported failed to its requester; a failed sample answers "go on" (R175, R137). -/
def readFailed (purpose : Purpose) (s : State) : State :=
  match purpose with
  | .chainLink op => chainReadFailed op s
  | .chainHeader op _ => chainReadFailed op s
  | .orderBody number _ => bodyFailed number s
  | .cancelPlate op => sampleAnswered op false s
  | .cancelTaken op => takenSampled op false s
  | .cancelActivation op => activationSampled op false s
  | .tonePiece owner _ => toneFailed owner s
  | .directoryEntry op => directoryFailed op s
  | .loadPiece entry op _ => loadReadFailed entry op s
  | .writeBackEntry op => writeBackReadFailed op s
  | .descriptor op => descriptorFailed op s
  | .poolEntry op => poolEntryFailed op s
  | .anchorPiece op _ => anchorPieceFailed op s
  | _ => s

/-! ## Sending (R174 to R177) -/

/-- The link is up and the function's memory requests are enabled (R177). -/
def canSend (s : State) : Bool := s.port.linkUp && s.port.memoryEnable

/-- The anchor read alone is not held against the window (R176, R178). -/
def windowExempt : Purpose → Bool
  | .anchorPiece _ _ => true
  | _ => false

def logSent (item : LinkItem) (s : State) : State := modPort (fun p => { p with sent := p.sent ++ [item] }) s

/-- A read is accepted: outside the window it fails, else it is in progress and, where it can be, sent (R173, R175,
R176, log 8). -/
def acceptRead (requester : Requester) (address length : Nat) (purpose : Purpose) (s : State) : State :=
  if windowExempt purpose || inWindow s address length then
    let held := modPort (fun p =>
      { p with
        reads := p.reads ++ [⟨p.nextRead, requester, address, length, purpose, canSend s⟩]
        nextRead := p.nextRead + 1 }) s
    if canSend s then logSent (.read address length) held else held
  else readFailed purpose s

/-- A write is sent and accepted, or fails (R174, R176, R177). -/
def acceptWrite (address : Nat) (data : List Byte) (purpose : Purpose) (s : State) : State :=
  if canSend s && inWindow s address data.length then writeAccepted purpose (logSent (.write address data) s)
  else writeFailed purpose s

/-- The interrupt message is sent, or fails like any write; with messages disabled it is not sent (R189, log 17). It has
no address and is held against no window (R176, log 48). -/
def acceptMessage (s : State) : State :=
  if !s.port.messageEnable then s
  else if canSend s then logSent .message s
  else writeFailed .interrupt s

/-! ## The arbiter (R173) -/

/-- A tone read gives way to the request: a header write, a slot group, a cancel sample or a count write. A read of the
chain or of a body, called for after the tone reads, waits behind them (R124). -/
def passesTone (r : Request) : Bool :=
  match r.purpose with
  | .chainLink _ => false
  | .chainHeader _ _ => false
  | .orderBody _ _ => false
  | _ => true

/-- The Order Walker's next request, one at a time in the order they were called for, but for tone reads, which give
way (R124). -/
def walkerRequest (s : State) : Option Request :=
  if s.walker.toneReads.isEmpty then s.port.walkerRequests.head?
  else (s.port.walkerRequests.find? passesTone).orElse fun _ => s.walker.toneReads.head?

/-- The request a requester has waiting; the Reference Cache presents loads and a write-back in rotation, behind the
resolutions' directory reads and the counts of refused pins (R88, log 22). -/
def waitingRequest (s : State) : Requester → Option Request
  | .orderWalker => walkerRequest s
  | .referenceCache =>
    s.port.cacheRequests.head?.orElse fun _ => (rotationEntry s).bind (entryRequest s)
  | .tileWriter => s.port.writerRequests.head?
  | .runControl => s.port.controlRequests.head?

def isRead (r : Request) : Bool :=
  match r.kind with
  | .read _ => true
  | _ => false

/-- The request the arbiter may grant a requester now: no read while 32 are in progress (R173). -/
def grantable (s : State) (requester : Requester) : Option Request :=
  (waitingRequest s requester).filter fun r => !isRead r || s.port.reads.length < Config.maxReads

/-- The cycle from the requester after the last granted (R173). -/
def cycleAfter : Requester → List Requester
  | .orderWalker => [.referenceCache, .tileWriter, .runControl, .orderWalker]
  | .referenceCache => [.tileWriter, .runControl, .orderWalker, .referenceCache]
  | .tileWriter => [.runControl, .orderWalker, .referenceCache, .tileWriter]
  | .runControl => [.orderWalker, .referenceCache, .tileWriter, .runControl]

/-- Those who may be granted: a group's requester alone between its writes (R173). -/
def turnOrder (p : Port) : List Requester :=
  match p.groupLock with
  | some requester => [requester]
  | none => cycleAfter p.lastGranted

/-- The next grant, if any. -/
def nextGrant (s : State) : Option (Requester × Request) :=
  (turnOrder s.port).findSome? fun requester => (grantable s requester).map fun r => (requester, r)

/-- The request granted is no longer waiting. -/
def takeWaiting (requester : Requester) (s : State) : State :=
  match requester with
  | .orderWalker =>
    if s.walker.toneReads.isEmpty then modPort (fun p => { p with walkerRequests := p.walkerRequests.tail }) s
    else if s.port.walkerRequests.any passesTone then
      modPort (fun p => { p with walkerRequests := p.walkerRequests.eraseP passesTone }) s
    else modWalker (fun w => { w with toneReads := w.toneReads.tail }) s
  | .referenceCache =>
    if s.port.cacheRequests.isEmpty then
      match rotationEntry s with
      | some n => entryGranted n s
      | none => s
    else modPort (fun p => { p with cacheRequests := p.cacheRequests.tail }) s
  | .tileWriter => modPort (fun p => { p with writerRequests := p.writerRequests.tail }) s
  | .runControl => modPort (fun p => { p with controlRequests := p.controlRequests.tail }) s

/-- A granted request is accepted in the event of the grant (R173). -/
def acceptRequest (requester : Requester) (r : Request) (s : State) : State :=
  match r.kind with
  | .read length => acceptRead requester r.address length r.purpose s
  | .write data => acceptWrite r.address data r.purpose s
  | .message => acceptMessage s

/-- One turn: the next waiting request is granted (R173). -/
def grantTurn (s : State) : State :=
  match nextGrant s with
  | none => s
  | some (requester, r) =>
    acceptRequest requester r
      (modPort (fun p =>
          { p with lastGranted := requester, groupLock := if r.more then some requester else none })
        (takeWaiting requester s))

/-! ## Completions (R175) -/

def findRead (number : Nat) (p : Port) : Option ReadInProgress := p.reads.find? fun r => r.number = number

def removeRead (number : Nat) (s : State) : State :=
  modPort (fun p => { p with reads := p.reads.filter fun r => r.number ≠ number }) s

/-- A read is reported failed and is no longer in progress. -/
def failRead (r : ReadInProgress) (s : State) : State := readFailed r.purpose (removeRead r.number s)

/-- The bytes of a read have come: a count that does not match the request fails it; a read not in progress, or not
sent, has no completion (R175, log 8). -/
def completeRead (number : Nat) (data : List Byte) (s : State) : State :=
  match findRead number s.port with
  | none => s
  | some r =>
    if !r.sent then s
    else if data.length = r.length then readDone r.address r.purpose data (removeRead number s)
    else failRead r s

/-- A completion with an error status, or the limit run out (R175). -/
def errorRead (number : Nat) (s : State) : State :=
  match findRead number s.port with
  | none => s
  | some r => if r.sent then failRead r s else s

def timeoutRead (number : Nat) (s : State) : State :=
  match findRead number s.port with
  | none => s
  | some r => failRead r s

/-! ## Settling (log 21) -/

/-- The first transition that is due, in the order of the list. -/
def firstDue (transitions : List (State → Option State)) (s : State) : Option State :=
  transitions.findSome? fun t => t s

/-- The next transition an event has made due, or none. -/
def advance (s : State) : Option State :=
  firstDue
    [markAdvance, grantAdvance, triggerAdvance, plateAdvance, fallbackAdvance, mergeAdvance, resolveAdvance,
      workAdvance, setupAdvance, activationAdvance, finalAdvance, writerAdvance, controlAdvance, walkAdvance,
      busAdvance] s

/-- Transitions due, one after another, until none is or the fuel is spent. -/
def settleFor : Nat → State → State
  | 0, s => s
  | fuel + 1, s =>
    match advance s with
    | none => s
    | some next => settleFor fuel next

/-- The transitions one event can bring about: one for every mark in the FIFO, and a bound well above what a chain of
the others takes (log 21). -/
def settleFuel (s : State) : Nat := s.intake.fifo.length + 256

/-- An event's consequences (log 21). -/
def settle (s : State) : State := settleFor (settleFuel s) s

end Sys2Proof.Machine
end

