-- ==== Sys2Proof/Machine/BusReceive.lean ====
section
/-! DEFINITION. The meanings of other stations' telegrams, notices and noise (R160, R161, R170). -/

namespace Sys2Proof.Machine

/-! ## What a notice does in the Plate Controller -/

/-- ARRIVED: it ends a move, or the moving of a shutdown; else it is a late event of the ACTIVE order (R15, R16, R197,
R198, log 28). -/
def plateArrived (s : State) : State :=
  if s.plate.phase = .moving && s.plate.motionTimer.isSome then
    moveEnded (modPlate (fun p => { p with movingMark := false }) s)
  else if s.plate.phase = .shutdown && s.plate.movingMark then modPlate (fun p => { p with movingMark := false }) s
  else latePacket (modPlate (fun p => { p with movingMark := false }) s)

/-- JAMMED fails a capture with MOTION_FAULT (R15). -/
def plateJammed (s : State) : State := if capturing s then failActive .motionFault s else s

/-- HOT fails a capture with LAMP_FAULT (R15). -/
def plateHot (s : State) : State := if capturing s then failActive .lampFault s else s

/-- LID_OPENED in SHUTDOWN is LID_OPEN for the order as well: free where OUTPUT_STARVED has failed a PLATE order
(R201's example against R200, log 49), and not so anywhere else (R200). -/
def lidOpenedFurther (s : State) : Bool :=
  s.plate.phase = .shutdown && s.walker.active.any fun a =>
    a.kind = .plate && a.primary = .outputStarved && Config.lidOpenedAfterStarved a.captureEnded

/-- LID_OPENED: lid OPEN, the mark set; outside INTERLOCK it fails a capture with LID_OPEN (R5, R6, R8). In SHUTDOWN it
fails nothing but in the case of R201's example (R200, R201, log 49). -/
def plateLidOpened (s : State) : State :=
  let opened := modPlate lidOpen s
  if capturing s && s.plate.phase ≠ .interlock || lidOpenedFurther s then failActive .lidOpen opened else opened

/-- LID_CLOSED: lid CLOSED, and with the mark set the plate-change flag (R5, R6). -/
def plateLidClosed (s : State) : State := modPlate lidClosed s

/-! ## Delivery (R161) -/

/-- A position as a notice carries it, most significant byte first (10.10, R206). -/
def positionBytes (x y : Word32) : List Byte := beBytes 4 x.toNat ++ beBytes 4 y.toNat

/-- JAMMED delivered to the Plate Controller and recorded (R161, R190). -/
def deliverJammed (data : List Byte) (s : State) : State :=
  plateJammed (recordNotice addressTransport noticeJammed data s)

def deliverHot (data : List Byte) (s : State) : State := plateHot (recordNotice addressPanel noticeHot data s)

def deliverLidOpened (s : State) : State := plateLidOpened (recordNotice addressLid noticeLidOpened [] s)

def deliverLidClosed (s : State) : State := plateLidClosed (recordNotice addressLid noticeLidClosed [] s)

/-- A notice the line can carry is answered ACCEPTED and delivered in one event (R160, R161). -/
def receiveNotice (deliver : State → State) (s : State) : State :=
  if canReceive s.bus then deliver (acceptNotice s) else s

/-- ARRIVED (R15, R16, R161). -/
def execArrived (_x _y : Word32) (s : State) : Host.Outcome State Fault Refusal :=
  .next (settle (receiveNotice plateArrived s))

/-- JAMMED (R15, R161, R190). -/
def execJammed (x y : Word32) (s : State) : Host.Outcome State Fault Refusal :=
  .next (settle (receiveNotice (deliverJammed (positionBytes x y)) s))

/-- HOT (R15, R161, R190). -/
def execHot (temperature : Word16) (s : State) : Host.Outcome State Fault Refusal :=
  .next (settle (receiveNotice (deliverHot (beBytes 2 temperature.toNat)) s))

/-- LID_OPENED (R5, R6, R8, R161, R190). -/
def execLidOpened (s : State) : Host.Outcome State Fault Refusal :=
  .next (settle (receiveNotice deliverLidOpened s))

/-- LID_CLOSED (R5, R6, R7, R161, R190). -/
def execLidClosed (s : State) : Host.Outcome State Fault Refusal :=
  .next (settle (receiveNotice deliverLidClosed s))

/-! ## Telegrams of other stations (R160) -/

/-- The telegram's check byte is good and its length byte, of whatever value, tells its length (R149, R150, R160). -/
def telegramGood (bytes : List Byte) : Bool := wellChecked bytes && bytes.length = 5 + fieldNat bytes 2 1

/-- The target address of byte 0 (R149). -/
def telegramTarget (bytes : List Byte) : Nat := fieldNat bytes 0 1 % 32

/-- What a notice of section 7.9 from its own module with that notice's data length delivers; none for any other
source, command or length (R160, R161). -/
def noticeDelivery (bytes : List Byte) : Option (State → State) :=
  let source := fieldNat bytes 1 1
  let command := BitVec.ofNat 8 (fieldNat bytes 3 1)
  let data := (bytes.drop 4).take (fieldNat bytes 2 1)
  if source = addressTransport && command = noticeArrived && data.length = 8 then some plateArrived
  else if source = addressTransport && command = noticeJammed && data.length = 8 then some (deliverJammed data)
  else if source = addressPanel && command = noticeHot && data.length = 2 then some (deliverHot data)
  else if source = addressLid && command = noticeLidOpened && data.length = 0 then some deliverLidOpened
  else if source = addressLid && command = noticeLidClosed && data.length = 0 then some deliverLidClosed
  else none

/-- Another station has begun first: its dominant bit on the IDLE line makes the part receive, and the gap is counted
anew (R148, R151). -/
def lineTaken (s : State) : State :=
  if s.bus.line = .idle then modBus (fun b => { b with line := .receiving, gap := 0 }) s else s

/-- No byte read yet: another station's telegram has begun (log 50). A telegram read whole: discarded when badly
checked, followed to its end for another target, a notice delivered, anything else to the part answered REFUSED
(R160). -/
def telegramCame (bytes : List Byte) (s : State) : State :=
  if bytes.isEmpty then lineTaken s
  else if !canReceive s.bus then s
  else if !telegramGood bytes then lineIdle s
  else if telegramTarget bytes ≠ 0 then lineIdle (wellReceived s)
  else
    match noticeDelivery bytes with
    | some deliver => receiveNotice deliver s
    | none => replyOnLine replyRefused (wellReceived s)

/-- TELEGRAM_RECEIVED (R160). -/
def execTelegramReceived (bytes : List Byte) (s : State) : Host.Outcome State Fault Refusal :=
  .next (settle (telegramCame bytes s))

/-- The part's reply has ended or broken off (R160). -/
def replyOver (s : State) : State := if s.bus.line = .replying then lineIdle s else s

/-- OWN_REPLY_SENT (R160). -/
def execOwnReplySent (s : State) : Host.Outcome State Fault Refusal := .next (settle (replyOver s))

/-- A dominant run without a start mark has ended (R160). -/
def falseStart (s : State) : State := if canReceive s.bus then lineIdle s else s

/-- FALSE_START (R160). -/
def execFalseStart (s : State) : Host.Outcome State Fault Refusal := .next (settle (falseStart s))

/-- NOISE_PULSE: on an IDLE line it sets the line-noise flag, and nothing else (R170). -/
def execNoisePulse (s : State) : Host.Outcome State Fault Refusal :=
  .next (if s.bus.line = .idle then modBus (fun b => { b with lineNoise := true }) s else s)

end Sys2Proof.Machine
end

