-- ==== Sys2Proof/Machine/BusSend.lean ====
section
/-! DEFINITION. The meanings of the events of the part's own telegrams, of the clear pulse and of the trim (R151 to
R156, R163, R166). -/

namespace Sys2Proof.Machine

/-- The gap is being counted: an IDLE line, no broken transaction still to end, no trim pulse out (R151). -/
def gapCounts (b : Bus) : Bool := b.line = .idle && !b.breakOff && !b.trimPulseOut

/-- The gap count has reached 8 (R151). -/
def gapReached (s : State) : State :=
  if gapCounts s.bus then modBus (fun b => { b with gap := Config.gapBits }) s else s

/-- GAP_COMPLETE (R151). -/
def execGapComplete (s : State) : Host.Outcome State Fault Refusal := .next (settle (gapReached s))

/-- The request whose attempt has waited 20 ms for a gap: the line is not free, no attempt is on it (R151). -/
def headWaits (b : Bus) : Option BusRequest :=
  if lineFree b || b.line = .clearing || b.attempt.isSome then none else readyRequest b

/-- The attempt is counted LOST without anything sent (R151). -/
def headWaited (s : State) : State :=
  match headWaits s.bus with
  | some r => attemptEnds r.number .lost 0 [] s
  | none => s

/-- HEAD_WAIT_TIMEOUT (R151). -/
def execHeadWaitTimeout (s : State) : Host.Outcome State Fault Refusal := .next (settle (headWaited s))

/-- The request the part is sending. -/
def sendingRequest (b : Bus) : Option Nat := if b.line = .sending then b.attempt else none

/-- The request whose reply slot the part watches. -/
def awaitingReply (b : Bus) : Option Nat := if b.line = .receiving then b.attempt else none

/-- Arbitration lost: the part reads on as a receiver (R152). -/
def arbitrationLost (s : State) : State :=
  match sendingRequest s.bus with
  | some number => attemptEnds number .lost 0 [] (modBus (fun b => { b with line := .receiving }) s)
  | none => s

/-- ARBITRATION_LOST (R152). -/
def execArbitrationLost (s : State) : Host.Outcome State Fault Refusal := .next (settle (arbitrationLost s))

/-- A mismatch from byte 2 on: the telegram breaks off, the attempt ends CORRUPT (R153). -/
def sendMismatch (s : State) : State :=
  match sendingRequest s.bus with
  | some number =>
    attemptEnds number .corrupt 0 [] (modBus (fun b => { b with line := .idle, gap := 0, breakOff := true }) s)
  | none => s

/-- SEND_MISMATCH (R153). -/
def execSendMismatch (s : State) : Host.Outcome State Fault Refusal := .next (settle (sendMismatch s))

/-- The telegram is out whole: a broadcast ends OK, else the reply slot is watched (R153); one whose request an ABORT
has taken away ends with nothing reported (R184). -/
def telegramOut (s : State) : State :=
  match sendingRequest s.bus with
  | none => s
  | some number =>
    match findRequest number s.bus with
    | some r =>
      if r.target = addressBroadcast then attemptEnds number .ok 0 [] (lineIdle s)
      else modBus (fun b => { b with line := .receiving }) s
    | none => attemptEnds number .ok 0 [] (lineIdle s)

/-- TELEGRAM_SENT (R153). -/
def execTelegramSent (s : State) : Host.Outcome State Fault Refusal := .next (settle (telegramOut s))

/-- The outcome a reply code gives (R154). -/
def replyOutcome (code : Nat) : BusOutcome :=
  if code = replyRefused then .refused else if code = replyBusy then .busy else .ok

/-- A reply read whole: its code, or CORRUPT where it is badly formed (R154). -/
def replyCame (bytes : List Byte) (s : State) : State :=
  match (awaitingReply s.bus).bind fun n => findRequest n s.bus with
  | some r =>
    match readReply r.command bytes with
    | some (code, reply) => attemptEnds r.number (replyOutcome code) code reply (lineIdle s)
    | none => attemptEnds r.number .corrupt 0 [] (lineIdle s)
  | none => s

/-- REPLY_RECEIVED (R154). -/
def execReplyReceived (bytes : List Byte) (s : State) : Host.Outcome State Fault Refusal :=
  .next (settle (replyCame bytes s))

/-- Nothing dominant in the slot's 12 bit-times (R154). -/
def slotSilent (s : State) : State :=
  match awaitingReply s.bus with
  | some number => attemptEnds number .noReply 0 [] (lineIdle s)
  | none => s

/-- REPLY_SLOT_TIMEOUT (R154). -/
def execReplySlotTimeout (s : State) : Host.Outcome State Fault Refusal := .next (settle (slotSilent s))

/-- A dominant bit in the slot's first 2 bit-times: the line is IDLE at once and the gap counted from there, with no
break-off awaited (R154, log 44). -/
def slotDisturbed (s : State) : State :=
  match awaitingReply s.bus with
  | some number => attemptEnds number .corrupt 0 [] (lineIdle s)
  | none => s

/-- SLOT_DOMINANT_EARLY (R154). -/
def execSlotDominantEarly (s : State) : Host.Outcome State Fault Refusal := .next (settle (slotDisturbed s))

/-- The rest of a request that drew BUSY is over (R156). -/
def restOver (number : Nat) (s : State) : State :=
  modBus (modRequest number fun r => { r with resting := false }) s

/-- BUSY_REST_EXPIRY (R156). -/
def execBusyRestExpiry (request : Nat) (s : State) : Host.Outcome State Fault Refusal :=
  .next (settle (restOver request s))

/-- A transaction has broken off and ended: the gap is counted from its end, and a reply to the part ends its attempt
CORRUPT (R151, R154). -/
def brokenOff (s : State) : State :=
  match s.bus.line, s.bus.attempt with
  | .receiving, some number => attemptEnds number .corrupt 0 [] (lineIdle s)
  | .receiving, none => lineIdle s
  | .idle, _ => lineIdle s
  | _, _ => s

/-- BREAK_OFF (R151). -/
def execBreakOff (s : State) : Host.Outcome State Fault Refusal := .next (settle (brokenOff s))

/-- The pulse's 2 ms are over (R163). -/
def pulseOver (s : State) : State := if s.bus.line = .clearing then endClear s else s

/-- CLEAR_PULSE_END (R163, R164). -/
def execClearPulseEnd (s : State) : Host.Outcome State Fault Refusal := .next (settle (pulseOver s))

/-- A trim pulse that is out has been measured (R166). -/
def trimPulse (delay : Nat) (s : State) : State := if s.bus.trimPulseOut then trimMeasured delay s else s

/-- TRIM_PULSE_MEASURED (R166). -/
def execTrimPulseMeasured (delay : Nat) (s : State) : Host.Outcome State Fault Refusal :=
  .next (settle (trimPulse delay s))

end Sys2Proof.Machine
end

