-- ==== Sys2Proof/Machine/Output.lean ====
section
/-! DEFINITION. The meanings of the Merge Engine's and the Reference Cache's work and of the Tile Writer's timers (R50,
R92, R95, R109, R110). -/

namespace Sys2Proof.Machine

/-- ROW_COMPUTED (R50 to R54). -/
def execRowComputed (s : State) : Host.Outcome State Fault Refusal := .next (settle (rowComputed s))

/-- DRY_RECHECK_EXPIRY (R109). -/
def execDryRecheckExpiry (s : State) : Host.Outcome State Fault Refusal := .next (settle (dryRecheck s))

/-- DRY_TIMER_EXPIRY (R110). -/
def execDryTimerExpiry (s : State) : Host.Outcome State Fault Refusal := .next (settle (dryExpired s))

/-- FRAME_ACCUMULATED (R92). -/
def execFrameAccumulated (s : State) : Host.Outcome State Fault Refusal := .next (settle (accumulateFrame s))

/-- REFERENCE_ROW_BUILT (R95, R96). -/
def execReferenceRowBuilt (s : State) : Host.Outcome State Fault Refusal := .next (settle (buildRow s))

end Sys2Proof.Machine
end

