-- ==== Sys2Proof/Machine/PixelLink.lean ====
section
/-! DEFINITION. The meanings of the Pixel Link's packets, the ack timer and the row FIFO's drain (R62 to R72, R206). -/

namespace Sys2Proof.Machine

/-- EXPOSED_PACKET (R62, R64). -/
def execExposedPacket (tag : Byte) (s : State) : Host.Outcome State Fault Refusal :=
  .next (settle (exposedArrived tag s))

/-- ROW_PACKET (R64, R65, R69, R206). -/
def execRowPacket (tag row samples check : List Byte) (s : State) : Host.Outcome State Fault Refusal :=
  .next (settle (rowArrived (tag ++ row ++ samples ++ check) s))

/-- FRAME_END_PACKET (R68, R64). -/
def execFrameEndPacket (tag : Byte) (count : Word16) (s : State) : Host.Outcome State Fault Refusal :=
  .next (settle (frameEndArrived tag count s))

/-- FIFO_ROW_WRITTEN (R66, R67). -/
def execFifoRowWritten (s : State) : Host.Outcome State Fault Refusal := .next (settle (fifoRowDone s))

/-- An ACK by its which byte; neither 1 nor 2 answers nothing (R71, R206). -/
def ackArrived (which : Byte) (s : State) : State :=
  if which = 1 then ackPause s else if which = 2 then ackResume s else s

/-- ACK_PACKET (R71). -/
def execAckPacket (which : Byte) (s : State) : Host.Outcome State Fault Refusal :=
  .next (settle (ackArrived which s))

/-- The running ack timer runs out (R72). -/
def ackTimeout (s : State) : State := if s.intake.ackTimer.isSome then ackExpired s else s

/-- ACK_TIMER_EXPIRY (R72). -/
def execAckTimerExpiry (s : State) : Host.Outcome State Fault Refusal := .next (settle (ackTimeout s))

/-- UNKNOWN_PACKET: discarded and reported to no one (R206). -/
def execUnknownPacket (_bytes : List Byte) (s : State) : Host.Outcome State Fault Refusal := .next s

end Sys2Proof.Machine
end

