-- ==== Sys2Proof/Machine/PlateTimers.lean ====
section
/-! DEFINITION. The meanings of the Plate Controller's timers (R7, R14, R16, R18, R20). -/

namespace Sys2Proof.Machine

/-- The recheck interval of a wait runs out: cancel is sampled, and the interval starts anew at the answer; with a
sample outstanding the interval starts anew at once (R7, R14, log 23). -/
def plateRecheck (s : State) : State :=
  if s.plate.recheckTimer.isSome && s.plate.sample.isNone then
    askSample .wait (modPlate (fun p => { p with recheckTimer := none }) s)
  else s

/-- PLATE_RECHECK_EXPIRY (R7, R14). -/
def execPlateRecheckExpiry (s : State) : Host.Outcome State Fault Refusal := .next (settle (plateRecheck s))

/-- The motion timer runs out before ARRIVED (R16). -/
def motionExpired (s : State) : State :=
  if s.plate.motionTimer.isSome then
    failActive .motionTimeout (modPlate (fun p => { p with motionTimer := none }) s)
  else s

/-- MOTION_TIMER_EXPIRY (R16). -/
def execMotionTimerExpiry (s : State) : Host.Outcome State Fault Refusal := .next (settle (motionExpired s))

/-- The exposure timer of the member record at that place runs. -/
def exposureRuns (s : State) (place : Nat) : Bool :=
  s.plate.members[place]?.any fun m => m.exposureTimer.isSome

/-- A member's exposure timer runs out before EXPOSED (R18). -/
def exposureExpired (place : Nat) (s : State) : State :=
  if exposureRuns s place then
    failActive .cameraTimeout (modMember place (fun m => { m with exposureTimer := none }) s)
  else s

/-- EXPOSURE_TIMER_EXPIRY (R18). -/
def execExposureTimerExpiry (place : Nat) (s : State) : Host.Outcome State Fault Refusal :=
  .next (settle (exposureExpired place s))

def frameRuns (s : State) (place : Nat) : Bool :=
  s.plate.members[place]?.any fun m => m.frameTimer.isSome

/-- A member's frame timer runs out before its end report (R20). -/
def frameExpired (place : Nat) (s : State) : State :=
  if frameRuns s place then
    failActive .cameraTimeout (modMember place (fun m => { m with frameTimer := none }) s)
  else s

/-- FRAME_TIMER_EXPIRY (R20). -/
def execFrameTimerExpiry (place : Nat) (s : State) : Host.Outcome State Fault Refusal :=
  .next (settle (frameExpired place s))

end Sys2Proof.Machine
end

