-- ==== Sys2Proof/Machine/PortEvents.lean ====
section
/-! DEFINITION. The meanings of the port's turns and completions, and of the walk's recheck (R126, R137, R173 to
R177). -/

namespace Sys2Proof.Machine

/-- ARBITER_GRANT (R173). -/
def execArbiterGrant (s : State) : Host.Outcome State Fault Refusal := .next (settle (grantTurn s))

/-- READ_COMPLETION (R175). -/
def execReadCompletion (read : Nat) (data : List Byte) (s : State) : Host.Outcome State Fault Refusal :=
  .next (settle (completeRead read data s))

/-- READ_ERROR_COMPLETION (R175). -/
def execReadErrorCompletion (read : Nat) (s : State) : Host.Outcome State Fault Refusal :=
  .next (settle (errorRead read s))

/-- READ_COMPLETION_TIMEOUT (R175). -/
def execReadCompletionTimeout (read : Nat) (s : State) : Host.Outcome State Fault Refusal :=
  .next (settle (timeoutRead read s))

/-- WALK_RECHECK_EXPIRY (R126, R137). -/
def execWalkRecheckExpiry (s : State) : Host.Outcome State Fault Refusal := .next (settle (walkRecheck s))

end Sys2Proof.Machine
end

