-- ==== Sys2Proof/Machine/Registers.lean ====
section
/-! DEFINITION. The meanings of the register writes, the resets and the inputs (R171, R172, R177, R181, R189, R203). -/

namespace Sys2Proof.Machine

/-- START (R181, R182, R183). -/
def execStart (s : State) : Host.Outcome State Fault Refusal := .next (settle (writeStart s))

/-- STOP (R181, R185). -/
def execStop (s : State) : Host.Outcome State Fault Refusal := .next (settle (writeStop s))

/-- ABORT (R181, R184, R186). -/
def execAbort (s : State) : Host.Outcome State Fault Refusal := .next (settle (writeAbort s))

/-- RESET (R171, R172). -/
def execReset (s : State) : Host.Outcome State Fault Refusal := .next (softReset s)

/-- CONTROL_SEVERAL_COMMANDS (R171). -/
def execControlSeveralCommands (value : Word32) (s : State) : Host.Outcome State Fault Refusal :=
  .next (writeControl value s)

/-- ANCHOR_REGISTER_WRITE (R171). -/
def execAnchorRegisterWrite (high : Bool) (value : Word32) (s : State) : Host.Outcome State Fault Refusal :=
  .next (writeAnchor high value s)

/-- STATUS_WRITE (R171, R189). -/
def execStatusWrite (value : Word32) (s : State) : Host.Outcome State Fault Refusal := .next (writeStatus value s)

/-- CAUSE_ENABLE_WRITE (R171, R189). -/
def execCauseEnableWrite (value : Word32) (s : State) : Host.Outcome State Fault Refusal :=
  .next (writeEnables value s)

/-- What a NUDGE write does before its consequences: the walk and the dry wait look again (R171, R126, R109). -/
def nudgePart (s : State) : State := examineDry (nudgeWalk s)

/-- NUDGE, whatever the value (R171). -/
def execNudge (_value : Word32) (s : State) : Host.Outcome State Fault Refusal := .next (settle (nudgePart s))

/-- A register write at an offset: a 32-bit access to a register acts by R171, any other changes nothing (R203). -/
def writeRegister (offset width : Nat) (value : Word32) (s : State) : State :=
  if width ≠ 4 then s
  else if offset = 0x00 then writeAnchor false value s
  else if offset = 0x04 then writeAnchor true value s
  else if offset = 0x08 then writeControl value s
  else if offset = 0x0C then writeStatus value s
  else if offset = 0x10 then writeEnables value s
  else if offset = 0x14 then nudgePart s
  else s

/-- OTHER_REGISTER_WRITE (R203). -/
def execOtherRegisterWrite (offset width : Nat) (value : Word64) (s : State) : Host.Outcome State Fault Refusal :=
  .next (writeRegister offset width (value.setWidth 32) s)

/-- POWER_ON_RESET (R172, R58). -/
def execPowerOnReset (s : State) : Host.Outcome State Fault Refusal := .next (powerOn s)

/-- FUNCTION_RESET: the same as RESET in every block (R172). -/
def execFunctionReset (s : State) : Host.Outcome State Fault Refusal := .next (softReset s)

/-- LINK_STATE_CHANGE: later requests can be sent, or fail (R175, R177). -/
def execLinkStateChange (up : Bool) (s : State) : Host.Outcome State Fault Refusal :=
  .next (modPort (fun p => { p with linkUp := up }) s)

/-- FUNCTION_ENABLE_CHANGE: the two enables as they now stand (R177, R189). -/
def execFunctionEnableChange (memory message : Bool) (s : State) : Host.Outcome State Fault Refusal :=
  .next (modPort (fun p => { p with memoryEnable := memory, messageEnable := message }) s)

end Sys2Proof.Machine
end

