-- ==== Sys2Proof/Machine/Dispatch.lean ====
section
/-! DEFINITION. One arm for each command: its meaning. -/

namespace Sys2Proof.Machine

def exec (i : Instr) (s : State) : Host.Outcome State Fault Refusal :=
  match i with
  | .start => Sys2Proof.Machine.execStart s
  | .stop => Sys2Proof.Machine.execStop s
  | .abort => Sys2Proof.Machine.execAbort s
  | .reset => Sys2Proof.Machine.execReset s
  | .controlSeveralCommands value => Sys2Proof.Machine.execControlSeveralCommands value s
  | .anchorRegisterWrite high value => Sys2Proof.Machine.execAnchorRegisterWrite high value s
  | .statusWrite value => Sys2Proof.Machine.execStatusWrite value s
  | .causeEnableWrite value => Sys2Proof.Machine.execCauseEnableWrite value s
  | .nudge value => Sys2Proof.Machine.execNudge value s
  | .otherRegisterWrite offset width value => Sys2Proof.Machine.execOtherRegisterWrite offset width value s
  | .powerOnReset => Sys2Proof.Machine.execPowerOnReset s
  | .functionReset => Sys2Proof.Machine.execFunctionReset s
  | .arbiterGrant => Sys2Proof.Machine.execArbiterGrant s
  | .readCompletion read data => Sys2Proof.Machine.execReadCompletion read data s
  | .readErrorCompletion read => Sys2Proof.Machine.execReadErrorCompletion read s
  | .readCompletionTimeout read => Sys2Proof.Machine.execReadCompletionTimeout read s
  | .walkRecheckExpiry => Sys2Proof.Machine.execWalkRecheckExpiry s
  | .frameAccumulated => Sys2Proof.Machine.execFrameAccumulated s
  | .gapComplete => Sys2Proof.Machine.execGapComplete s
  | .headWaitTimeout => Sys2Proof.Machine.execHeadWaitTimeout s
  | .arbitrationLost => Sys2Proof.Machine.execArbitrationLost s
  | .sendMismatch => Sys2Proof.Machine.execSendMismatch s
  | .telegramSent => Sys2Proof.Machine.execTelegramSent s
  | .replyReceived bytes => Sys2Proof.Machine.execReplyReceived bytes s
  | .replySlotTimeout => Sys2Proof.Machine.execReplySlotTimeout s
  | .slotDominantEarly => Sys2Proof.Machine.execSlotDominantEarly s
  | .busyRestExpiry request => Sys2Proof.Machine.execBusyRestExpiry request s
  | .breakOff => Sys2Proof.Machine.execBreakOff s
  | .telegramReceived bytes => Sys2Proof.Machine.execTelegramReceived bytes s
  | .arrived x y => Sys2Proof.Machine.execArrived x y s
  | .jammed x y => Sys2Proof.Machine.execJammed x y s
  | .hot temperature => Sys2Proof.Machine.execHot temperature s
  | .lidOpened => Sys2Proof.Machine.execLidOpened s
  | .lidClosed => Sys2Proof.Machine.execLidClosed s
  | .ownReplySent => Sys2Proof.Machine.execOwnReplySent s
  | .falseStart => Sys2Proof.Machine.execFalseStart s
  | .noisePulse => Sys2Proof.Machine.execNoisePulse s
  | .clearPulseEnd => Sys2Proof.Machine.execClearPulseEnd s
  | .trimPulseMeasured delay => Sys2Proof.Machine.execTrimPulseMeasured delay s
  | .plateRecheckExpiry => Sys2Proof.Machine.execPlateRecheckExpiry s
  | .motionTimerExpiry => Sys2Proof.Machine.execMotionTimerExpiry s
  | .exposureTimerExpiry member => Sys2Proof.Machine.execExposureTimerExpiry member s
  | .frameTimerExpiry member => Sys2Proof.Machine.execFrameTimerExpiry member s
  | .exposedPacket tag => Sys2Proof.Machine.execExposedPacket tag s
  | .rowPacket tag row samples check => Sys2Proof.Machine.execRowPacket tag row samples check s
  | .frameEndPacket tag count => Sys2Proof.Machine.execFrameEndPacket tag count s
  | .fifoRowWritten => Sys2Proof.Machine.execFifoRowWritten s
  | .ackPacket which => Sys2Proof.Machine.execAckPacket which s
  | .ackTimerExpiry => Sys2Proof.Machine.execAckTimerExpiry s
  | .unknownPacket bytes => Sys2Proof.Machine.execUnknownPacket bytes s
  | .rowComputed => Sys2Proof.Machine.execRowComputed s
  | .dryRecheckExpiry => Sys2Proof.Machine.execDryRecheckExpiry s
  | .dryTimerExpiry => Sys2Proof.Machine.execDryTimerExpiry s
  | .referenceRowBuilt => Sys2Proof.Machine.execReferenceRowBuilt s
  | .linkStateChange up => Sys2Proof.Machine.execLinkStateChange up s
  | .functionEnableChange memory message => Sys2Proof.Machine.execFunctionEnableChange memory message s

end Sys2Proof.Machine
end

