-- ==== Sys2Proof/Safety.lean ====
section
/-! DEFINITION. What counts as a safe state and a safe run, in the terms claims use: the bounds the rules call laws of
the part or give as sizes, and a step that never stops the machine. -/

namespace Sys2Proof.Machine

/-- No two entries that are not EMPTY carry one directory index (R83). -/
def CarriedOnce (entries : List CacheEntry) : Prop :=
  ∀ (i j : Nat) (a b : CacheEntry), entries[i]? = some a → entries[j]? = some b → a.state ≠ .empty →
    b.state ≠ .empty → a.index = b.index → i = j

/-- Bounds of the state that the rules state. -/
structure Bounded (s : State) : Prop where
  /-- Sixteen frame slots (R58). -/
  slots : s.intake.slots.length = Config.slotCount
  /-- 48 cache entries (R80). -/
  entries : s.cache.entries.length = Config.cacheEntries
  /-- At most 32 reads in progress (R173). -/
  reads : s.port.reads.length ≤ Config.maxReads
  /-- At most 5 entries on the outstanding trigger list (R58, R61). -/
  triggers : s.intake.triggers.length ≤ Config.triggerPlaces
  /-- At most 64 rows in the row FIFO (R58, R65, R69). -/
  fifo : fifoLevel s ≤ Config.fifoPlaces
  /-- At most 32 pinned entries (R82). -/
  pins : pinnedCount s ≤ Config.pinLimit
  /-- At most one entry for one directory index (R83). -/
  once : CarriedOnce s.cache.entries
  /-- At most 8 queued telegram requests (R147, R157). -/
  queue : s.bus.queue.length ≤ Config.busQueuePlaces

/-- The invariant of every step: the bounds, and frame memory in its canonical form. -/
structure Inv (s : State) : Prop where
  bounded : Bounded s
  memory : Memory.wf s.frame

/-- The port's inputs from the link and from the function's configuration (08, section 8.1): link up, memory requests
enabled, messages enabled. -/
def inputsOf (p : Port) : Bool × Bool × Bool := (p.linkUp, p.memoryEnable, p.messageEnable)

/-- What lies around the blocks is the same in `t` as in `s`: the queue, the count of power-ons, the inputs. -/
structure SameOutside (s t : State) : Prop where
  queue : t.pending = s.pending
  powerOns : t.powerOns = s.powerOns
  inputs : inputsOf t.port = inputsOf s.port

/-- A step that goes on: neither a fault nor a refusal. -/
def StepsOn (s : State) : Prop := ∃ t, step s = .next t

/-- A command's own effect on `s` is `t`: the event ends with the consequences of `t` settled (log 21), and where `t`
has none it ends in `t` itself. -/
def Effects (c : Instr) (s t : State) : Prop :=
  exec c s = .next (settle t) ∧ (advance t = none → exec c s = .next t)

/-- The interrupt message as it is presented (R189, R173). -/
def interruptRequest : Request := ⟨.message, 0, .interrupt, false⟩

/-- The message, where run control owes it and the function's messages are enabled (R189). -/
def messageIf (owed : Bool) (p : Port) : List Request :=
  if owed && p.messageEnable then [interruptRequest] else []

/-- A command refused: the REFUSED flag set, the message presented where REFUSED is enabled and no cause was pending,
and nothing else (R171, R181, R189). -/
def refusedState (s : State) : State :=
  { s with port := { s.port with
      causes := { s.port.causes with refused := true }
      controlRequests := s.port.controlRequests ++
        messageIf (s.port.enables.refused && !causesPending s.port) s.port } }

/-- The event fails the ACTIVE order with a code: before the consequences are settled the order has the code as its
primary one, with the Plate Controller's counts handed over, and the Plate Controller is in SHUTDOWN with no timer of
the capture left (R28, R141, R194, R197). The exposure and frame timers stand in the member records, which the model
empties (its choice, log 61). -/
def FailsActive (c : Instr) (s : State) (code : ResultCode) : Prop :=
  ∃ (u : State) (a : ActiveOrder), exec c s = .next (settle u) ∧ u.walker.active = some a ∧ a.primary = code ∧
    a.retakes = s.plate.retakes ∧ a.lateEvents = s.plate.lateEvents ∧ a.thickness = s.plate.thickness.getD 0 ∧
    u.plate.phase = .shutdown ∧ u.plate.motionTimer = none ∧ u.plate.recheckTimer = none ∧ u.plate.members = []

/-- The anchor block's 512 bytes arrive whole, in one read of STARTING, and pass every test (R178). -/
structure AnchorArrives (s : State) (n op : Nat) (data : List Byte) : Prop where
  starting : s.port.runState = .starting
  step : s.port.startStep = .readingAnchor op 1
  pieces : s.port.anchorPieces = []
  read : ∃ r, findRead n s.port = some r ∧ r.purpose = .anchorPiece op 0 ∧ r.sent = true ∧ r.length = 512
  whole : data.length = 512
  passes : anchorTests s.port.anchorRegister.toNat data = none

/-- The arbiter's next turn grants this write, which can be sent and lies inside the window (R173, R176, R177). -/
structure WriteDue (s : State) (q : Requester) (r : Request) (data : List Byte) : Prop where
  turn : nextGrant s = some (q, r)
  kind : r.kind = .write data
  sendable : canSend s = true
  inside : inWindow s r.address data.length = true

/-- The state in which a granted write has been sent, before its requester is told of the acceptance (R173). -/
def sentState (s : State) (q : Requester) (r : Request) (data : List Byte) : State :=
  let taken := takeWaiting q s
  { taken with port := { taken.port with
      lastGranted := q, groupLock := if r.more then some q else none
      sent := s.port.sent ++ [.write r.address data] } }

/-- Nothing is under way in the blocks around the Order Walker: no packet, reservation or trigger request waits, no tile
is merged, no reference made, no output written, no telegram or clear pulse due. -/
structure OthersQuiet (s : State) : Prop where
  fifo : s.intake.fifo = []
  reservation : s.intake.reservation = none
  trigger : s.intake.waitingTrigger = none
  merge : s.merge.phase = .idle
  work : s.cache.work = none
  writer : s.writer.params = none
  queue : s.bus.queue = []
  rate : s.bus.rateRequest = none
  start : s.bus.start = none

/-- An order is ACTIVE with no code recorded and its final write not begun, and the Plate Controller is not yet in
SHUTDOWN. -/
def CanFail (s : State) : Prop :=
  s.plate.phase ≠ .shutdown ∧ ∃ a, s.walker.active = some a ∧ a.ending = false ∧ a.primary = .none

/-- OUTPUT_STARVED has failed the ACTIVE order, a PLATE order in SHUTDOWN whose final write has not begun: the case of
R201's example, where LID_OPENED is LID_OPEN or not (R200, R201, log 49). -/
def StarvedShutdown (s : State) (a : ActiveOrder) : Prop :=
  s.plate.phase = .shutdown ∧ s.walker.active = some a ∧ a.kind = .plate ∧ a.primary = .outputStarved ∧
    a.ending = false

end Sys2Proof.Machine
end

