-- ==== Sys2Proof/Certificates/Slice0/Obligations.lean ====
section
/-! DEFINITION. The statements for the provers. A statement about a command that settles (log 21) gives the state that
the command's own effect reaches, by `Effects`. -/

open Sys2Proof Sys2Proof.Machine

/-! ## The machine as a whole -/

/-- A step takes the command at the front of the queue and runs it on the state with the queue's rest. -/
def Obligations.StepRunsTheFrontCommand : Prop :=
  ∀ (c : Instr) (rest : List Instr) (s : State),
    step { s with pending := c :: rest } = exec c { s with pending := rest }

/-- Every command answers a next state in every state, and so does every step (the model's choices: log 37, and log 3
where an event cannot come about); on an empty queue the part idles (the model's choice, log 4). -/
def Obligations.EveryStepGoesOn : Prop :=
  ((∀ (c : Instr) (s : State), ∃ t, exec c s = .next t) ∧ ∀ s : State, StepsOn s) ∧
  (∀ s : State, s.pending = [] → step s = .next s)

/-- The invariant holds right after reset. -/
def Obligations.ResetMeetsTheInvariant : Prop := Inv State.reset

/-- Every step keeps the invariant: 16 slots, 48 entries, at most 32 reads in progress, 5 triggers, 64 FIFO rows, 32 pins
and 8 queued telegram requests, no two entries that carry one directory index, frame memory in canonical form. -/
def Obligations.StepKeepsTheInvariant : Prop :=
  ∀ s t : State, Inv s → step s = .next t → Inv t

/-- Only a read's data for a load, a FIFO row, an accumulation, a built row and a power-on reset touch frame memory:
after any other command every byte reads as before. -/
def Obligations.OtherCommandsLeaveFrameMemory : Prop :=
  ∀ (c : Instr) (s t : State), exec c s = .next t →
    (∀ (n : Nat) (d : List Byte), c = .readCompletion n d →
      ∀ r, findRead n s.port = some r → ∀ e op o, r.purpose ≠ .loadPiece e op o) →
    c ≠ .fifoRowWritten → c ≠ .frameAccumulated → c ≠ .referenceRowBuilt → c ≠ .powerOnReset →
    ∀ a, memoryRead t.frame a = memoryRead s.frame a

/-- No command but their own changes the inputs, a reset among them (the model's choice, log 7), and none the queue or,
but for a power-on reset, the count of power-ons (the model's own pieces, logs 1 and 4). The inputs' own commands leave
the link's state and the two function enables as they say, and change nothing else (logs 8 and 17). -/
def Obligations.CommandsLeaveQueueAndInputs : Prop :=
  (∀ (c : Instr) (s t : State), exec c s = .next t →
    t.pending = s.pending ∧ (c ≠ .powerOnReset → t.powerOns = s.powerOns) ∧
      ((∀ up, c ≠ .linkStateChange up) → (∀ m n, c ≠ .functionEnableChange m n) →
        inputsOf t.port = inputsOf s.port)) ∧
  ∀ (s : State) (up memory message : Bool),
    exec (.linkStateChange up) s = .next { s with port := { s.port with linkUp := up } } ∧
      exec (.functionEnableChange memory message) s =
        .next { s with port := { s.port with memoryEnable := memory, messageEnable := message } }

/-! ## Resets and registers -/

/-- RESET and a function reset leave every block at its reset values; frame memory and the next tag stay. What no rule
gives a reset value, the inputs, the logs of what was sent and the model's numbers, stays too (logs 6, 7, 24, 26). A
power-on reset does the same with the next tag 0 and every byte of frame memory a free value (log 1). Every register
then reads 0. -/
def Obligations.ResetsLeaveResetValues : Prop :=
  ∀ s : State,
    let soft : State :=
      { State.reset with
        port := { Port.reset with
          nextRead := s.port.nextRead, linkUp := s.port.linkUp, memoryEnable := s.port.memoryEnable
          messageEnable := s.port.messageEnable, sent := s.port.sent }
        bus := { Bus.reset with nextRequest := s.bus.nextRequest, sent := s.bus.sent }
        intake := { Intake.reset with nextTag := s.intake.nextTag, sent := s.intake.sent }
        frame := s.frame
        powerOns := s.powerOns
        nextOp := s.nextOp
        pending := s.pending }
    let cold : State :=
      { soft with intake := { soft.intake with nextTag := 0 }, frame := [], powerOns := s.powerOns + 1 }
    exec .reset s = .next soft ∧ exec .functionReset s = .next soft ∧ exec .powerOnReset s = .next cold ∧
      (∀ offset width, readRegister soft offset width = 0 ∧ readRegister cold offset width = 0) ∧
      ∀ a, frameBytes cold a 1 = [Config.undefinedFrameByte (s.powerOns + 1) a]

/-- A refused command, CONTROL write or anchor write sets REFUSED and does nothing else but owe the message. -/
def Obligations.RefusalsSetOnlyTheCause : Prop :=
  ∀ s : State,
    (s.port.runState ≠ .halted → s.port.runState ≠ .stopped →
      Effects .start s (refusedState s) ∧
        ∀ high value, exec (.anchorRegisterWrite high value) s = .next (refusedState s)) ∧
    (s.port.runState ≠ .running → Effects .stop s (refusedState s)) ∧
    (s.port.runState ≠ .starting → s.port.runState ≠ .running → s.port.runState ≠ .draining →
      Effects .abort s (refusedState s)) ∧
    ∀ value, namesSeveral value = true → exec (.controlSeveralCommands value) s = .next (refusedState s)

/-- In HALTED and STOPPED an anchor write replaces the written half, which then reads back, and the other half stays; a
write to no register, of another width, or a CONTROL write naming no command changes nothing. -/
def Obligations.AnchorWriteReplacesOneHalf : Prop :=
  (∀ (s : State) (high : Bool) (value : Word32), s.port.runState = .halted ∨ s.port.runState = .stopped →
    ∃ anchor : Word64,
      let t := { s with port := { s.port with anchorRegister := anchor } }
      exec (.anchorRegisterWrite high value) s = .next t ∧
        readRegister t (if high then 0x04 else 0x00) 4 = value ∧
        readRegister t (if high then 0x00 else 0x04) 4 = readRegister s (if high then 0x00 else 0x04) 4) ∧
  ∀ (s : State) (offset width : Nat) (value : Word64), writesNothing offset width value = true →
    exec (.otherRegisterWrite offset width value) s = .next s

/-- What a register read returns: the two halves of the anchor address; in STATUS the run state's value in bits 2..0,
the fault reason's in 7..4, the cause flags in 13..8, the line-noise flag in 16; the enables in 13..8; every other bit,
and a read of no register or of another width, is 0. -/
def Obligations.RegistersReadTheirFields : Prop :=
  (∀ s : State,
    let status := readRegister s 0x0C 4
    let enables := readRegister s 0x10 4
    (readRegister s 0x04 4).toNat * 2 ^ 32 + (readRegister s 0x00 4).toNat = s.port.anchorRegister.toNat ∧
      status.toNat % 8 = runStateValue s.port.runState ∧ status.toNat / 16 % 16 = faultReasonValue s.port.faultReason ∧
      causesOf status = s.port.causes ∧ status.getLsbD 16 = s.bus.lineNoise ∧
      (∀ k, k = 3 ∨ k = 14 ∨ k = 15 ∨ 17 ≤ k → status.getLsbD k = false) ∧
      causesOf enables = s.port.enables ∧ (∀ k, k < 8 ∨ 14 ≤ k → enables.getLsbD k = false) ∧
      readRegister s 0x08 4 = 0 ∧ readRegister s 0x14 4 = 0 ∧
      ∀ offset width, isRegisterAccess offset width = false → readRegister s offset width = 0) ∧
  (runStateValue .halted = 0 ∧ runStateValue .starting = 1 ∧ runStateValue .running = 2 ∧ runStateValue .draining = 3 ∧
    runStateValue .aborting = 4 ∧ runStateValue .stopped = 5 ∧ runStateValue .faulted = 6) ∧
  (faultReasonValue .none = 0 ∧ faultReasonValue .anchorAddress = 1 ∧ faultReasonValue .anchorRead = 2 ∧
    faultReasonValue .anchorLayout = 3 ∧ faultReasonValue .anchorWindow = 4 ∧ faultReasonValue .anchorPool = 5 ∧
    faultReasonValue .anchorDirectory = 6 ∧ faultReasonValue .chainRead = 7 ∧ faultReasonValue .writeFailed = 8)

/-- A STATUS write clears the flags written as 1 and nothing else; the message goes out again where some pending causes
were cleared and others stay. -/
def Obligations.StatusWriteClearsFlags : Prop :=
  ∀ (s : State) (value : Word32),
    let written := causesOf value
    exec (.statusWrite value) s = .next
      { s with
        port := { s.port with
          causes := causesMinus s.port.causes written
          controlRequests := s.port.controlRequests ++
            messageIf (causesAny (causesAnd (pendingCauses s.port) written) &&
              causesAny (causesMinus (pendingCauses s.port) written)) s.port }
        bus := { s.bus with lineNoise := s.bus.lineNoise && !value.getLsbD 16 } }

/-- A CAUSE_ENABLE write replaces the six enables, a cause's event sets its flag; either presents the message where it
makes the pending set not empty. -/
def Obligations.InterruptFollowsTheCauses : Prop :=
  (∀ (s : State) (value : Word32),
    exec (.causeEnableWrite value) s = .next
      { s with port := { s.port with
          enables := causesOf value
          controlRequests := s.port.controlRequests ++
            messageIf (!causesPending s.port && causesAny (causesAnd s.port.causes (causesOf value))) s.port } }) ∧
  (∀ (s : State) (cause : Cause),
    setCause cause s =
      { s with port := { s.port with
          causes := raiseCause cause s.port.causes
          controlRequests := s.port.controlRequests ++
            messageIf (causeFlag s.port.enables cause && !causesPending s.port) s.port } })

/-- NUDGE starts an examination of a WAITING walk, and one of a dry wait, which scans from its take index the order's
reserved pool, where it has one that is not held dry and the plane has not fallen back, else the common pool; with
neither it changes nothing. The recheck interval of a dry wait scans the same way and starts anew. -/
def Obligations.NudgeLooksAgain : Prop :=
  (∀ (s : State) (value : Word32),
    let looked := { s.walker with phase := .examining, recheckTimer := none }
    (∀ planes, s.writer.task ≠ .dryWait planes) →
      (s.walker.phase = .waiting → Effects (.nudge value) s { s with walker := looked }) ∧
      (s.walker.phase ≠ .waiting → Effects (.nudge value) s s)) ∧
  ∀ (s : State) (plane : Plane) (rest : List Plane) (p : OutputParams) (w : Settings),
    s.writer.task = .dryWait (plane :: rest) → s.writer.params = some p → s.writer.nextList < p.capacity →
    s.port.settings = some w →
    let reserved := p.reserved.filter fun r => !r.dry && !(planeRecord s.writer plane).fallback
    let base := (reserved.map ReservedPool.base).getD w.poolBase
    let count := (reserved.map ReservedPool.count).getD w.poolCount
    let take := (reserved.map ReservedPool.take).getD s.writer.commonTake
    let task : WriterTask := .scanning (plane :: rest) ⟨s.nextOp, reserved.isSome, take, count - 1⟩
    let port := { s.port with writerRequests := s.port.writerRequests ++
      [⟨.read 16, base + 16 * take, .poolEntry s.nextOp, false⟩] }
    (∀ value : Word32,
      Effects (.nudge value) s
        { s with
          walker := if s.walker.phase = .waiting then { s.walker with phase := .examining, recheckTimer := none }
            else s.walker
          nextOp := s.nextOp + 1
          writer := { s.writer with task := task }
          port := port }) ∧
    ∀ left, s.writer.recheckTimer = some left →
      Effects .dryRecheckExpiry s
        { s with
          nextOp := s.nextOp + 1
          writer := { s.writer with recheckTimer := some w.recheck, task := task }
          port := port }

/-! ## Run control -/

/-- START in HALTED or STOPPED, with a good anchor address, is STARTING with the anchor's 512 bytes asked for; where they
run past 2^64, that the reads neither wrap nor fail is the model's choice (log 73). -/
def Obligations.StartReadsTheAnchor : Prop :=
  ∀ s : State, s.port.runState = .halted ∨ s.port.runState = .stopped →
    s.port.anchorRegister ≠ 0 → s.port.anchorRegister.toNat % 64 = 0 →
    let fresh : Bool := s.port.runState = .halted || s.port.freshMark
    let reads := readSpan s.port.anchorRegister.toNat 512 fun offset => .anchorPiece s.nextOp offset
    Effects .start s
      { s with
        nextOp := s.nextOp + 1
        port := { s.port with
          runState := .starting
          startFresh := fresh
          freshMark := fresh
          startStep := .readingAnchor s.nextOp reads.length
          anchorPieces := []
          controlRequests := s.port.controlRequests ++ reads } }

/-- FAULTED is entered with the reason of its cause and the FAULT flag: a START with an anchor address of 0 or not
64-byte aligned (ANCHOR_ADDRESS, the settings dropped, the clear pulse asked for), the third failed chain read in a row
(CHAIN_READ), a write that cannot be sent or lies outside the window (WRITE_FAILED). -/
def Obligations.FaultedIsEntered : Prop :=
  (∀ s : State, s.port.runState = .halted ∨ s.port.runState = .stopped →
    s.port.anchorRegister = 0 ∨ s.port.anchorRegister.toNat % 64 ≠ 0 →
    ∃ u : State, exec .start s = .next (settle u) ∧ u.port.runState = .faulted ∧
      u.port.faultReason = .anchorAddress ∧ u.port.causes.fault = true ∧ u.port.settings = none ∧
      ClearRequester.runControl ∈ u.bus.pendingClear.getD [] ∧ u.walker.phase = .off) ∧
  (∀ (s : State) (n op : Nat) (r : ReadInProgress), findRead n s.port = some r → r.purpose = .chainLink op →
    r.sent = true → s.walker.examination = some op → s.walker.readFailures = 2 → s.port.runState = .running →
    ∃ u : State, exec (.readErrorCompletion n) s = .next (settle u) ∧ u.port.runState = .faulted ∧
      u.port.faultReason = .chainRead ∧ u.port.causes.fault = true ∧ u.walker.phase = .off) ∧
  (∀ (s : State) (q : Requester) (r : Request) (data : List Byte), nextGrant s = some (q, r) →
    r.kind = .write data → canSend s = false ∨ inWindow s r.address data.length = false →
    s.port.runState ≠ .halted → s.port.runState ≠ .faulted →
    ∃ u : State, exec .arbiterGrant s = .next (settle u) ∧ u.port.runState = .faulted ∧
      u.port.faultReason = .writeFailed ∧ u.port.causes.fault = true)

/-- The fault reason of an anchor block is that of the first test that fails, in the order layout, window, pool,
directory; with none failing there is no reason. -/
def Obligations.AnchorTestsGiveTheFirstReason : Prop :=
  ∀ (anchor : Nat) (bytes : List Byte),
    let w := parseSettings anchor bytes
    (anchorTests anchor bytes = some .anchorLayout ↔ leNat (bytes.take 4) ≠ 1) ∧
    (anchorTests anchor bytes = some .anchorWindow ↔ leNat (bytes.take 4) = 1 ∧
      (w.windowBase % 4096 ≠ 0 ∨ w.windowSize = 0 ∨ 2 ^ 64 < w.windowBase + w.windowSize ∨
        anchor < w.windowBase ∨ w.windowBase + w.windowSize < anchor + 512)) ∧
    (anchorTests anchor bytes = some .anchorPool ↔ leNat (bytes.take 4) = 1 ∧ windowBad w = false ∧
      (w.poolCount < 16 ∨ 4096 < w.poolCount ∨ w.poolBase % 64 ≠ 0 ∨ w.poolBase < w.windowBase ∨
        w.windowBase + w.windowSize < w.poolBase + 16 * w.poolCount)) ∧
    (anchorTests anchor bytes = some .anchorDirectory ↔ leNat (bytes.take 4) = 1 ∧ windowBad w = false ∧
      poolBad w = false ∧
      (w.directoryCount < 1 ∨ 256 < w.directoryCount ∨ w.directory % 64 ≠ 0 ∨ w.directory < w.windowBase ∨
        w.windowBase + w.windowSize < w.directory + 64 * w.directoryCount)) ∧
    (anchorTests anchor bytes = none ↔ leNat (bytes.take 4) = 1 ∧ windowBad w = false ∧ poolBad w = false ∧
      directoryBad w = false)

/-- The anchor's last bytes, passing every test, put its settings in force. In the form of R182 the zero group is
presented, RESUME sent, the plate-change flag set and the clear pulse begun, all in one event. In that of R183, with room
in the queue for the PINGs, the take index is kept, or set to 0 and written where the new entry count is no greater, the
plate-change flag is set, and the roll call is requested, with no pulse and no zero group; nothing else changes. The zero
group accepted clears the fresh-start mark. The last PING reported, answered by its module, ends the bus controller's
part, from STOPPED or with preference BASE: presence, rate and flag are presented as one write; else the trim follows.
That write accepted, the part is RUNNING with SETTLED and the walk examines, from the position it kept. The model's
choices: the zero group as one write (log 9), sending and accepting in the event of the grant (log 8). -/
def Obligations.AcceptedAnchorBeginsTheBusPart : Prop :=
  (∀ (s : State) (n op : Nat) (data : List Byte), AnchorArrives s n op data → s.port.startFresh = true →
    s.bus.pendingClear = none → s.bus.rateRequest = none → s.bus.queue = [] →
    s.port.rate = .base → s.port.degraded = s.bus.degraded →
    ∃ u : State, exec (.readCompletion n data) s = .next (settle u) ∧
      u.port.settings = some (parseSettings s.port.anchorRegister.toNat data) ∧
      u.port.controlRequests = s.port.controlRequests ++
        [⟨.write (zeroBytes 44), s.port.anchorRegister.toNat + 256, .zeroGroup, false⟩] ∧
      u.intake.sent = s.intake.sent ++ [.resume] ∧ u.intake.flow = .resumeSent ∧ u.plate.plateChange = true ∧
      u.bus.line = .clearing ∧ u.bus.start = some .pulse ∧ u.bus.pendingClear = some [.runControl]) ∧
  (∀ (s : State) (n op : Nat) (data : List Byte), AnchorArrives s n op data → s.port.startFresh = false →
    s.bus.queue.length ≤ 3 →
    let anchor := s.port.anchorRegister.toNat
    let w := parseSettings anchor data
    let beyond : Bool := w.poolCount ≤ s.writer.commonTake
    let ping := fun address => newRequest (s.bus.nextRequest + (address - 1)) (.rollCall address) 4 address 1 []
    Effects (.readCompletion n data) s
      { s with
        port := { s.port with
          reads := s.port.reads.filter fun x => x.number ≠ n
          anchorPieces := []
          settings := some w
          startStep := .busPart
          writerRequests := s.port.writerRequests ++
            if beyond then [⟨.write (leBytes 4 0), anchor + 264, .poolWrite, false⟩] else [] }
        writer := { s.writer with commonTake := if beyond then 0 else s.writer.commonTake }
        plate := { s.plate with plateChange := true }
        bus := { s.bus with
          start := some .rollCall
          pings := [1, 2, 3, 4, 5]
          queue := [1, 2, 3, 4, 5].foldl (fun q address => queueInsert (ping address) q) s.bus.queue
          nextRequest := s.bus.nextRequest + 5 } }) ∧
  (∀ (s : State) (q : Requester) (r : Request) (data : List Byte), WriteDue s q r data → r.purpose = .zeroGroup →
    let t := sentState s q r data
    Effects .arbiterGrant s { t with port := { t.port with zeroPending := false, freshMark := false } }) ∧
  (∀ (s : State) (w : Settings) (r : BusRequest) (address : Nat) (kind : Byte) (bytes : List Byte),
    s.bus.line = .receiving → s.bus.attempt = some r.number → findRequest r.number s.bus = some r →
    r.requester = .rollCall address → readReply r.command bytes = some (1, [kind]) → s.bus.pings = [address] →
    s.bus.start = some .rollCall → s.port.settings = some w →
    let presence := setPresence address (kind.toNat = address) s.bus.presence
    let ended := { removeRequest r.number
      { s.bus with line := .idle, gap := 0, breakOff := false, attempt := none, corruptRun := 0 } with
        presence := presence, pings := [] }
    (s.port.startFresh = false ∨ w.preferQuick = false →
      Effects (.replyReceived bytes) s
        { s with
          bus := { ended with start := none }
          port := { s.port with
            presence := presence
            rate := s.bus.rate
            degraded := s.bus.degraded
            startStep := .reporting
            controlRequests := s.port.controlRequests ++
              [⟨.write (rateGroup presence s.bus.rate s.bus.degraded), w.anchor + 280, .startReport, false⟩] } }) ∧
    (s.port.startFresh = true → w.preferQuick = true →
      Effects (.replyReceived bytes) s
        { s with
          bus := { ended with start := some .trim, trimDelays := [] }
          port := { s.port with presence := presence } })) ∧
  (∀ (s : State) (q : Requester) (r : Request) (data : List Byte), WriteDue s q r data → r.purpose = .startReport →
    s.port.runState = .starting → s.port.startStep = .reporting →
    let t := sentState s q r data
    let running := { t with port := { t.port with runState := .running, startStep := .idle } }
    Effects .arbiterGrant s { setCause .settled running with walker := { t.walker with phase := .examining } })

/-- STOP in RUNNING is DRAINING, with the walk OFF and its examination's requests gone (log 27). DRAINING with no order
held, a withdrawal still being written among them, is due to become STOPPED with SETTLED, with one held it is not: so,
with nothing else under way, it is STOPPED in the event of the STOP, and in that of the last order's final state.
ABORTING becomes STOPPED with SETTLED when its clear pulse ends. -/
def Obligations.StopDrains : Prop :=
  (∀ s : State, s.port.runState = .running →
    Effects .stop s
      { s with
        port := { s.port with
          runState := .draining
          walkerRequests := s.port.walkerRequests.filter fun r => !chainPurpose r.purpose }
        walker := { s.walker with
          phase := .off
          examination := none
          recheckTimer := if s.walker.taken.isSome then s.walker.recheckTimer else none } }) ∧
  (∀ s : State, s.port.runState = .draining →
    let held := s.walker.taken ≠ none ∨ s.walker.active ≠ none ∨
      ∃ r ∈ s.port.walkerRequests, r.purpose = .withdrawnState
    (held → controlAdvance s = none) ∧
      (¬held → controlAdvance s = some (setCause .settled { s with port := { s.port with runState := .stopped } }))) ∧
  (∀ s : State, s.port.runState = .running → OthersQuiet s → s.plate.order = none → s.plate.fallbackMark = false →
    s.walker.taken = none → s.walker.active = none → (∀ r ∈ s.port.walkerRequests, r.purpose ≠ .withdrawnState) →
    ∃ t : State, exec .stop s = .next t ∧ t.port.runState = .stopped ∧ t.port.causes.settled = true ∧
      t.walker.phase = .off ∧ t.port.settings = s.port.settings) ∧
  (∀ (s : State) (a : ActiveOrder) (r : Request) (data : List Byte), s.port.runState = .draining → OthersQuiet s →
    s.walker.taken = none → s.walker.active = some a → nextGrant s = some (.orderWalker, r) → r.kind = .write data →
    r.purpose = .finalState false → canSend s = true → inWindow s r.address data.length = true →
    (∀ r ∈ s.port.walkerRequests, r.purpose ≠ .withdrawnState) →
    ∃ t : State, exec .arbiterGrant s = .next t ∧ t.port.runState = .stopped ∧ t.port.causes.settled = true ∧
      t.walker.active = none) ∧
  (∀ s : State, s.bus.line = .clearing → s.port.runState = .aborting → s.port.startStep = .pulsing →
    .runControl ∈ s.bus.pendingClear.getD [] → s.bus.start = none →
    ∃ u : State, exec .clearPulseEnd s = .next (settle u) ∧ u.port.runState = .stopped ∧
      u.port.causes.settled = true ∧ u.bus.line = .idle ∧ u.bus.pendingClear = none)

/-- ABORT in RUNNING or DRAINING with no order held is ABORTING with the walk OFF and its examination's requests gone
(log 27); in STARTING with the bus controller's part under way it abandons that part, a trim or its RATE with the rate
BASE and the trim INVALID (log 15); it ends a TAKEN order at once, its final results with ABORTED, then the state
FAILED. -/
def Obligations.AbortAborts : Prop :=
  (∀ s : State,
    (s.port.runState = .running ∨ s.port.runState = .draining → s.walker.taken = none → s.walker.active = none →
      Effects .abort s
        { s with
          port := { s.port with
            runState := .aborting
            walkerRequests := s.port.walkerRequests.filter fun r => !chainPurpose r.purpose }
          walker := { s.walker with phase := .off, examination := none, recheckTimer := none } }) ∧
    (s.port.runState = .starting → s.port.startStep = .busPart →
      let trimming : Bool := s.bus.start = some .trim || s.bus.start = some .rate
      Effects .abort s
        { s with
          port := { s.port with runState := .aborting, startStep := .idle }
          bus := { s.bus with
            start := none
            trimPulseOut := false
            rateRequest := if trimming then none else s.bus.rateRequest
            trimValid := if trimming then false else s.bus.trimValid
            rate := if trimming then .base else s.bus.rate } })) ∧
  (∀ (s : State) (o : TakenOrder), s.port.runState = .running ∨ s.port.runState = .draining →
    s.walker.taken = some o → o.ending = false → s.walker.active = none →
    ∃ u kept, exec .abort s = .next (settle u) ∧ u.port.runState = .aborting ∧
      u.port.walkerRequests = kept ++
        [⟨.write (finalGroup .aborted .none o.clamps 0 0 0 0), o.address + 24, .orderWrite, false⟩,
          ⟨.write (leBytes 4 5), o.address, .finalState true, false⟩] ∧
      ∀ r ∈ kept, r ∈ s.port.walkerRequests)

/-! ## The Station Memory Port -/

/-- The arbiter grants the first requester in turn that has a request it may grant: the four in their cycle from the one
after the last granted, between the writes of a group only the group's requester; while 32 reads are in progress no read
is granted. -/
def Obligations.ArbiterFollowsTheCycle : Prop :=
  (∀ (s : State) (q : Requester) (r : Request),
    nextGrant s = some (q, r) ↔
      grantable s q = some r ∧
        ∃ before after, turnOrder s.port = before ++ q :: after ∧ ∀ p ∈ before, grantable s p = none) ∧
  (∀ p : Port,
    (∀ q, p.groupLock = some q → turnOrder p = [q]) ∧
    (p.groupLock = none →
      (p.lastGranted = .orderWalker →
        turnOrder p = [.referenceCache, .tileWriter, .runControl, .orderWalker]) ∧
      (p.lastGranted = .referenceCache →
        turnOrder p = [.tileWriter, .runControl, .orderWalker, .referenceCache]) ∧
      (p.lastGranted = .tileWriter →
        turnOrder p = [.runControl, .orderWalker, .referenceCache, .tileWriter]) ∧
      (p.lastGranted = .runControl →
        turnOrder p = [.orderWalker, .referenceCache, .tileWriter, .runControl]))) ∧
  (∀ (s : State) (q : Requester) (r : Request), waitingRequest s q = some r →
    grantable s q = if isRead r = true ∧ 32 ≤ s.port.reads.length then none else some r) ∧
  ∀ (s : State) (q : Requester), waitingRequest s q = none → grantable s q = none

/-- A granted write that can be sent is sent and accepted in the event of the grant, a read inside the window, or of the
anchor, is sent and in progress, a message is sent; the turn is the requester's, its group's lock held while more writes
follow. A completion or an error of a read that is not in progress is discarded. The model's choices: the one event of
sending and accepting (log 8), the message held against no window (log 48), the limit of a read that is not in progress
changing nothing (log 3). -/
def Obligations.GrantAcceptsInItsEvent : Prop :=
  (∀ (s : State) (q : Requester) (r : Request), nextGrant s = some (q, r) →
    let taken := takeWaiting q s
    let granted := { taken.port with lastGranted := q, groupLock := if r.more then some q else none }
    (∀ data, r.kind = .write data → canSend s = true → inWindow s r.address data.length = true →
      Effects .arbiterGrant s (writeAccepted r.purpose
        { taken with port := { granted with sent := s.port.sent ++ [.write r.address data] } })) ∧
    (∀ length, r.kind = .read length → canSend s = true →
      windowExempt r.purpose = true ∨ inWindow s r.address length = true →
      Effects .arbiterGrant s
        { taken with port := { granted with
            reads := s.port.reads ++ [⟨s.port.nextRead, q, r.address, length, r.purpose, true⟩]
            nextRead := s.port.nextRead + 1
            sent := s.port.sent ++ [.read r.address length] } }) ∧
    (r.kind = .message → canSend s = true → s.port.messageEnable = true →
      Effects .arbiterGrant s { taken with port := { granted with sent := s.port.sent ++ [.message] } })) ∧
  ∀ (s : State) (n : Nat) (data : List Byte), findRead n s.port = none →
    Effects (.readCompletion n data) s s ∧ Effects (.readErrorCompletion n) s s ∧
      Effects (.readCompletionTimeout n) s s

/-- A chain link read: a candidate of 0 makes the walk wait, the count of failed chain reads 0 and the recheck timer
started; one not aligned or outside the window makes it wait with the count as it was; of any other the 64-byte header
is read. The candidate is what was read, with the walk position none too, whatever chain head was copied at START (log
47, the model's reading of R125 beside R179). An error or the limit on the read makes the walk wait with the count up by
one, while that is below 3. -/
def Obligations.ChainReadDecidesTheExamination : Prop :=
  ∀ (s : State) (n op : Nat) (r : ReadInProgress) (w : Settings), findRead n s.port = some r →
    r.purpose = .chainLink op → r.sent = true → s.walker.examination = some op → s.port.settings = some w →
    let waiting := fun failures : Nat =>
      { s with
        port := { s.port with reads := s.port.reads.filter fun x => x.number ≠ n }
        walker := { s.walker with
          phase := .waiting, examination := none, readFailures := failures, recheckTimer := some w.recheck } }
    let examined := fun candidate : Nat =>
      if candidate = 0 then waiting 0
      else if candidate % 64 ≠ 0 ∨ candidate < w.windowBase ∨ w.windowBase + w.windowSize < candidate + 64 then
        waiting s.walker.readFailures
      else
        { s with
          port := { s.port with
            reads := s.port.reads.filter fun x => x.number ≠ n
            walkerRequests := s.port.walkerRequests ++
              [⟨.read 64, candidate, .chainHeader op candidate, false⟩] } }
    (r.length = 8 → ∀ data : List Byte, data.length = 8 →
      Effects (.readCompletion n data) s (examined (leNat data))) ∧
    (s.walker.readFailures + 1 < 3 →
      Effects (.readErrorCompletion n) s (waiting (s.walker.readFailures + 1)) ∧
        Effects (.readCompletionTimeout n) s (waiting (s.walker.readFailures + 1)))

/-- A header that is POSTED without cancel takes the order: TAKEN is presented, the walk position is the order's, the
walk BARRED, the count of failed chain reads 0. -/
def Obligations.PostedHeaderTakesTheOrder : Prop :=
  ∀ (s : State) (n op address : Nat) (r : ReadInProgress) (data : List Byte), findRead n s.port = some r →
    r.purpose = .chainHeader op address → r.sent = true → r.length = 64 → data.length = 64 →
    s.walker.examination = some op → leNat (data.take 4) = 1 → leNat ((data.drop 8).take 4) = 0 →
    ∃ u o, exec (.readCompletion n data) s = .next (settle u) ∧ u.walker.position = some address ∧
      u.walker.phase = .barred ∧ u.walker.readFailures = 0 ∧ u.walker.taken = some o ∧ o.address = address ∧
      o.tag.toNat = leNat ((data.drop 12).take 4) ∧
      (⟨.write (leBytes 4 2), address, .orderWrite, false⟩ : Request) ∈ u.port.walkerRequests

/-- The walk's recheck timer starts an examination of a WAITING walk; the recheck interval of a wait of the Plate
Controller asks for a cancel sample of the ACTIVE order. -/
def Obligations.RechecksLookAgain : Prop :=
  (∀ (s : State) (left : Nat), s.walker.recheckTimer = some left → s.walker.taken = none →
    s.walker.phase = .waiting →
    Effects .walkRecheckExpiry s { s with walker := { s.walker with phase := .examining, recheckTimer := none } }) ∧
  (∀ (s : State) (left : Nat) (a : ActiveOrder), s.plate.recheckTimer = some left → s.plate.sample = none →
    s.walker.active = some a →
    Effects .plateRecheckExpiry s
      { s with
        nextOp := s.nextOp + 1
        plate := { s.plate with recheckTimer := none, sample := some ⟨s.nextOp, .wait⟩ }
        port := { s.port with walkerRequests := s.port.walkerRequests ++
          [⟨.read 4, a.address + 8, .cancelPlate s.nextOp, false⟩] } })

/-! ## The Station Bus -/

/-- On an IDLE line with nothing broken off and no trim pulse out the gap count reaches 8; the part then begins the
telegram of the first request in the queue's order that does not rest, which sets the gap back to 0. A request joins the
queue behind those of its priority and of lower numbers; a PING that finds 8 requests there is reported LOST at once, its
module absent. The last byte of a telegram of the part is the check byte over
the bytes before it, and the part reads its own telegrams as well checked. -/
def Obligations.FreeLineSendsTheFirstReady : Prop :=
  (∀ s : State, s.bus.line = .idle → s.bus.breakOff = false → s.bus.trimPulseOut = false →
    Effects .gapComplete s { s with bus := { s.bus with gap := 8 } }) ∧
  (∀ (s : State) (before : List BusRequest) (r : BusRequest) (after : List BusRequest),
    s.bus.line = .idle → s.bus.gap = 8 → s.bus.breakOff = false → s.bus.trimPulseOut = false →
    s.bus.rateRequest = none → s.bus.queue = before ++ r :: after → (∀ q ∈ before, q.resting = true) →
    r.resting = false →
    busAdvance s = some
      { s with bus := { s.bus with
          line := .sending
          gap := 0
          attempt := some r.number
          sent := s.bus.sent ++ [.telegram (telegramBytes r.priority r.target r.command r.data)] } }) ∧
  (∀ (r : BusRequest) (before after : List BusRequest), (∀ q ∈ before, q.priority ≤ r.priority) →
    (∀ q ∈ after.head?, r.priority < q.priority) → queueInsert r (before ++ after) = before ++ r :: after) ∧
  (∀ (s : State) (a b : Nat), s.bus.queue.length = 8 → a ∈ s.bus.pings → b ∈ s.bus.pings → b ≠ a →
    sendPing a s = { s with bus := { s.bus with
      presence := setPresence a false s.bus.presence, pings := s.bus.pings.filter (· ≠ a) } }) ∧
  ∀ (priority target : Nat) (command : Byte) (data : List Byte),
    let bytes := telegramBytes priority target command data
    bytes = bytes.dropLast ++ [crc8 bytes.dropLast] ∧ bytes.length = 5 + data.length ∧ wellChecked bytes = true

/-- An attempt that is lost, before its start mark or in the arbitration, adds one to the request's lost count below 16
and leaves it in the queue, a lost arbitration with the part receiving; a mismatch, a disturbed slot and a silent slot
spoil the attempt, below 3 with the request staying, the first two adding to the corrupt attempts in a row; the third
corrupt attempt in a row brings the bus controller's own clear pulse. That a disturbed slot leaves the line IDLE at once
with no break-off awaited is the model's choice (log 44). -/
def Obligations.AttemptsAreCounted : Prop :=
  (∀ (s : State) (r : BusRequest), findRequest r.number s.bus = some r → r.lost + 1 < 16 →
    let counted := modRequest r.number (fun q => { q with lost := q.lost + 1, lastOutcome := .lost })
      { s.bus with attempt := none }
    (headWaits s.bus = some r → Effects .headWaitTimeout s { s with bus := counted }) ∧
    (s.bus.line = .sending → s.bus.attempt = some r.number →
      Effects .arbitrationLost s { s with bus := { counted with line := .receiving } })) ∧
  (∀ (s : State) (r : BusRequest), s.bus.attempt = some r.number → findRequest r.number s.bus = some r →
    r.spoiled + 1 < 3 →
    let counted := fun outcome : BusOutcome =>
      modRequest r.number (fun q => { q with spoiled := q.spoiled + 1, lastOutcome := outcome })
        { s.bus with line := .idle, gap := 0, breakOff := false, attempt := none }
    let corrupt := { counted .corrupt with corruptRun := s.bus.corruptRun + 1 }
    (s.bus.line = .sending → s.bus.corruptRun + 1 < 3 →
      Effects .sendMismatch s { s with bus := { corrupt with breakOff := true } }) ∧
    (s.bus.line = .receiving → s.bus.corruptRun + 1 < 3 →
      Effects .slotDominantEarly s { s with bus := corrupt }) ∧
    (s.bus.line = .receiving →
      Effects .replySlotTimeout s { s with bus := { counted .noReply with corruptRun := 0 } })) ∧
  (∀ (s : State) (n : Nat), s.bus.line = .sending → s.bus.attempt = some n → s.bus.corruptRun = 2 →
    s.bus.pendingClear = none →
    ∃ u : State, exec .sendMismatch s = .next (settle u) ∧ u.bus.line = .clearing ∧ u.bus.corruptRun = 0 ∧
      u.bus.rate = .base ∧ u.bus.attempt = none ∧ u.bus.queue = [] ∧
      .busController ∈ u.bus.pendingClear.getD [])

/-- A telegram that has a reply slot, sent whole, leaves the part watching the slot; a rest ends; a broken transaction's
end, the part's own, another station's or one on an IDLE line, the end of the part's own reply and a false start leave
the line IDLE with the gap counted anew. Noise on an IDLE line sets the line-noise flag and does nothing else; on any
other line it does nothing. -/
def Obligations.LineEventsMoveOn : Prop :=
  (∀ (s : State) (n : Nat) (r : BusRequest), s.bus.line = .sending → s.bus.attempt = some n →
    findRequest n s.bus = some r → r.target ≠ 31 →
    Effects .telegramSent s { s with bus := { s.bus with line := .receiving } }) ∧
  (∀ (s : State) (n : Nat),
    Effects (.busyRestExpiry n) s
      { s with bus := modRequest n (fun q => { q with resting := false }) s.bus }) ∧
  (∀ s : State,
    let idle := { s with bus := { s.bus with line := .idle, gap := 0, breakOff := false } }
    (s.bus.line = .idle → Effects .breakOff s idle) ∧
    (s.bus.line = .receiving → s.bus.attempt = none → Effects .breakOff s idle) ∧
    (s.bus.line = .replying → Effects .ownReplySent s idle) ∧
    (canReceive s.bus = true → Effects .falseStart s idle)) ∧
  ∀ s : State,
    (s.bus.line = .idle → exec .noisePulse s = .next { s with bus := { s.bus with lineNoise := true } }) ∧
      (s.bus.line ≠ .idle → exec .noisePulse s = .next s)

/-- A BUSY reply lets the request rest, while it has drawn fewer than 5, and is kept with it; a PING's DONE_NOW reply
makes the request leave and the module present where it names its own kind, the roll call going on while PINGs are out.
In the capture GOTO answered ACCEPTED sets the moving mark and starts the motion timer; LIGHT, RING, DARK and RING_OFF
answered DONE_NOW set the lamp's state; GAUGE's reply gives the thickness of a PLATE order's plate, which goes to its
first tile boundary, or lets a FLAT go to its move, and fails the order with NO_PLATE or PLATE_PRESENT otherwise;
LIDSTATE's reply sets the lid; any other code fails the order, a refused lamp being UNSURE. A failure empties the member
records (the model's choice, log 61). -/
def Obligations.RepliesEndTheAttempt : Prop :=
  (∀ (s : State) (r : BusRequest) (bytes : List Byte), s.bus.line = .receiving → s.bus.attempt = some r.number →
    findRequest r.number s.bus = some r →
    let ended := { s.bus with line := .idle, gap := 0, breakOff := false, attempt := none, corruptRun := 0 }
    (∀ data, readReply r.command bytes = some (4, data) → r.busy < 5 →
      Effects (.replyReceived bytes) s
        { s with
          bus := modRequest r.number (fun q =>
            if q.busy < 5 then
              { q with busy := q.busy + 1, resting := true, lastOutcome := .busy, replyCode := 4, replyData := data }
            else { q with lastOutcome := .busy, replyCode := 4, replyData := data }) ended }) ∧
    ∀ (a b : Nat) (kind : Byte), readReply r.command bytes = some (1, [kind]) → r.requester = .rollCall a →
      a ∈ s.bus.pings → b ∈ s.bus.pings → b ≠ a →
      Effects (.replyReceived bytes) s
        { s with bus := { removeRequest r.number ended with
            presence := setPresence a (kind.toNat = a) s.bus.presence
            pings := s.bus.pings.filter (· ≠ a) } }) ∧
  (∀ (s : State) (r : BusRequest) (o : PlateOrder) (x y : Nat) (bytes : List Byte),
    s.bus.line = .receiving → s.bus.attempt = some r.number → findRequest r.number s.bus = some r →
    r.requester = .plate → readReply r.command bytes = some (2, []) → s.plate.awaiting = some (.goto x y) →
    s.plate.order = some o → s.plate.phase ≠ .shutdown →
    Effects (.replyReceived bytes) s
      { s with
        bus := removeRequest r.number
          { s.bus with line := .idle, gap := 0, breakOff := false, attempt := none, corruptRun := 0 }
        plate := { s.plate with awaiting := none, movingMark := true, motionTimer := some o.motion } }) ∧
  (∀ (s : State) (r : BusRequest) (o : PlateOrder) (step : PlateStep) (bytes data : List Byte),
    s.bus.line = .receiving → s.bus.attempt = some r.number → findRequest r.number s.bus = some r →
    r.requester = .plate → readReply r.command bytes = some (1, data) → s.plate.awaiting = some step →
    s.plate.order = some o → s.plate.phase ≠ .shutdown →
    let ended := removeRequest r.number
      { s.bus with line := .idle, gap := 0, breakOff := false, attempt := none, corruptRun := 0 }
    let answered := { s.plate with awaiting := none }
    let becomes := fun plate : Plate => Effects (.replyReceived bytes) s { s with bus := ended, plate := plate }
    let lidRead := step = .lidCheck ∨ step = .interlockLid
    let thickness := beNat ((data.drop 1).take 4)
    (∀ channel level, step = .light channel level →
      becomes { answered with panel := .lit (channel % 256) (level % 65536) }) ∧
    (∀ level, step = .ring level → becomes { answered with ring := .lit (level % 65536) }) ∧
    (step = .dark ∨ step = .darkIfLit → becomes { answered with panel := .dark }) ∧
    (step = .ringOff ∨ step = .ringOffIfLit → becomes { answered with ring := .dark }) ∧
    (lidRead → data.head? = some 1 → becomes { answered with lid := .opened, openedSeen := true }) ∧
    (lidRead → data.head? = some 2 → becomes
      { answered with
        lid := .closed, openedSeen := false, plateChange := s.plate.plateChange || s.plate.openedSeen }) ∧
    (step = .gauge → ∀ present, data.head? = some present →
      (∀ b, o.body = .plate b →
        (present ≠ 0 → becomes
          { answered with thickness := some thickness, phase := .tileBoundary, capture := 0 }) ∧
        (present = 0 → CanFail s → FailsActive (.replyReceived bytes) s .noPlate)) ∧
      ∀ b, o.body = .reference b →
        (present = 0 → becomes { answered with phase := .moving, plan := movePlan b.x b.y }) ∧
        (present ≠ 0 → CanFail s → ∃ u a, exec (.replyReceived bytes) s = .next (settle u) ∧
          u.plate.phase = .shutdown ∧ u.walker.active = some a ∧ a.primary = .platePresent ∧
          a.thickness = thickness))) ∧
  ∀ (s : State) (r : BusRequest) (step : PlateStep) (bytes data : List Byte) (code : Nat),
    s.bus.line = .receiving → s.bus.attempt = some r.number → findRequest r.number s.bus = some r →
    r.requester = .plate → readReply r.command bytes = some (code, data) → code = 2 ∨ code = 3 →
    s.plate.awaiting = some step → CanFail s →
    let lamp := (∃ channel level, step = .light channel level) ∨ step = .dark ∨ step = .darkIfLit
    let ring := (∃ level, step = .ring level) ∨ step = .ringOff ∨ step = .ringOffIfLit
    let failed := fun code : ResultCode => FailsActive (.replyReceived bytes) s code
    (lamp ∨ ring → failed .lampFault) ∧
    (step = .gauge ∨ step = .lidCheck ∨ step = .interlockLid → failed .busFailure) ∧
    (∀ x y, step = .goto x y → code = 3 → failed .motionFault) ∧
    (code = 3 → ∃ u, exec (.replyReceived bytes) s = .next (settle u) ∧
      (lamp → u.plate.panel = .unsure) ∧ (ring → u.plate.ring = .unsure))

/-- A telegram of another station: its first dominant bit on an IDLE line makes the part receive, the gap counted anew
(its form of the command: log 50); read whole and badly checked it is discarded; well checked for another target it is
followed to its end; to the part, and no notice of its module, it is answered REFUSED. -/
def Obligations.TelegramsOfOtherStations : Prop :=
  (∀ s : State,
    (s.bus.line = .idle →
      Effects (.telegramReceived []) s { s with bus := { s.bus with line := .receiving, gap := 0 } }) ∧
    (s.bus.line ≠ .idle → Effects (.telegramReceived []) s s)) ∧
  ∀ (s : State) (bytes : List Byte), canReceive s.bus = true → bytes ≠ [] →
    (wellChecked bytes = false →
      Effects (.telegramReceived bytes) s
        { s with bus := { s.bus with line := .idle, gap := 0, breakOff := false } }) ∧
    (telegramGood bytes = true → telegramTarget bytes ≠ 0 →
      Effects (.telegramReceived bytes) s
        { s with bus := { s.bus with line := .idle, gap := 0, breakOff := false, corruptRun := 0 } }) ∧
    (telegramGood bytes = true → telegramTarget bytes = 0 → noticeDelivery bytes = none →
      Effects (.telegramReceived bytes) s
        { s with bus := { s.bus with
            line := .replying
            gap := 0
            breakOff := false
            corruptRun := 0
            sent := s.bus.sent ++ [.reply (replyBytes 3)] } })

/-- JAMMED, HOT, LID_OPENED and LID_CLOSED outside a capture are answered ACCEPTED and, with accepted settings and no
zero group still to be accepted, recorded: the count goes up by one and the record's group, then the count, are presented;
without them nothing is recorded; the lid notices change the lid either way. LID_OPENED in SHUTDOWN fails nothing, but
where OUTPUT_STARVED has failed a PLATE order, whose counts and LID_OPEN it either hands over or not (log 49, the model's
choice: free, R200 against R201's example). The model's choices too: in STOPPED the record goes to the anchor block in
force, not to an address written since (log 19), and in a START from STOPPED the settings held record it until the new
anchor is accepted (log 70). -/
def Obligations.AttentionNoticesAreRecorded : Prop :=
  ∀ s : State, canReceive s.bus = true → capturing s = false →
    let answered := { s.bus with
      line := .replying
      gap := 0
      breakOff := false
      corruptRun := 0
      sent := s.bus.sent ++ [.reply (replyBytes 2)] }
    let recorded := fun (module notice : Nat) (data : List Byte) =>
      match s.port.settings, s.port.freshMark with
      | some w, false =>
        { s.port with
          noticeCount := s.port.noticeCount + 1
          controlRequests := s.port.controlRequests ++
            [⟨.write (noticeGroup module notice data (activeTag s)), w.anchor + 284, .noticeRecord, true⟩,
              ⟨.write (leBytes 4 (s.port.noticeCount + 1).toNat), w.anchor + 276, .noticeCount, false⟩] }
      | _, _ => s.port
    (∀ x y : Word32, Effects (.jammed x y) s
      { s with bus := answered, port := recorded 1 0x19 (beBytes 4 x.toNat ++ beBytes 4 y.toNat) }) ∧
    (∀ t : Word16, Effects (.hot t) s { s with bus := answered, port := recorded 2 0x28 (beBytes 2 t.toNat) }) ∧
    let opened := { s with
      bus := answered
      port := recorded 5 0x58 []
      plate := { s.plate with lid := .opened, openedSeen := true } }
    ((∀ a, ¬ StarvedShutdown s a) → Effects .lidOpened s opened) ∧
    (∀ a, StarvedShutdown s a → Effects .lidOpened s opened ∨
      Effects .lidOpened s
        { opened with walker := { s.walker with active := some { a with
            secondary := if a.secondary = .none then .lidOpen else a.secondary
            retakes := s.plate.retakes
            lateEvents := s.plate.lateEvents
            thickness := s.plate.thickness.getD 0 } } }) ∧
    Effects .lidClosed s
      { s with
        bus := answered
        port := recorded 5 0x59 []
        plate := { s.plate with
          lid := .closed
          openedSeen := false
          plateChange := s.plate.plateChange || s.plate.openedSeen } }

/-- ARRIVED ends the move of a PLATE tile: EXPOSING, the motion timer stopped, the first member's lamp step begun;
outside a move it counts as a late event of the ACTIVE order. -/
def Obligations.ArrivedEndsTheMove : Prop :=
  ∀ (s : State) (x y : Word32), canReceive s.bus = true →
    let answered := { s.bus with
      line := .replying
      gap := 0
      breakOff := false
      corruptRun := 0
      sent := s.bus.sent ++ [.reply (replyBytes 2)] }
    (∀ (o : PlateOrder) (b : PlateBody) (left : Nat) (m : Member) (rest : List Member), s.plate.phase = .moving →
      s.plate.motionTimer = some left → s.plate.order = some o → o.body = .plate b →
      s.plate.members = m :: rest → m.phase = .waiting →
      Effects (.arrived x y) s
        { s with
          bus := answered
          plate := { s.plate with
            phase := .exposing
            motionTimer := none
            movingMark := false
            members := { m with phase := .lighting } :: rest
            plan := memberPlan b 0 m } }) ∧
    (s.plate.phase ≠ .moving → s.plate.phase ≠ .shutdown →
      Effects (.arrived x y) s
        { s with
          bus := answered
          plate := { s.plate with
            movingMark := false, lateEvents := s.plate.lateEvents + (if s.plate.order.isSome then 1 else 0) } })

/-- The end of a clear pulse outside STARTING and ABORTING, with no capture: the line is IDLE and the gap counted anew,
the lid unknown, the lamps DARK, both marks clear; a VALID trim is followed by RATE(QUICK). -/
def Obligations.ClearPulseEndsDarkAndIdle : Prop :=
  ∀ s : State, s.bus.line = .clearing → capturing s = false → s.bus.start = none →
    s.bus.clearOwn = false → s.port.runState ≠ .aborting → s.port.rate = s.bus.rate →
    s.port.degraded = s.bus.degraded →
    let idle := { s.bus with
      line := .idle, gap := 0, breakOff := false, pendingClear := none, clearOwn := false, clearAtQuick := false }
    Effects .clearPulseEnd s
      { s with
        bus := if s.bus.trimValid then
            { idle with
              rateRequest := some (newRequest s.bus.nextRequest .rate 4 31 0x02 [1])
              nextRequest := s.bus.nextRequest + 1 }
          else idle
        plate := { s.plate with
          lid := .unknown, panel := .dark, ring := .dark, movingMark := false, fallbackMark := false } }

/-- A trim pulse before the eighth adds its delay and counts the gap anew; the eighth decides: with every delay at most
250 ns the trim is VALID and RATE(QUICK) follows, with a longer one INVALID and the flag set. -/
def Obligations.TrimPulsesDecideTheRate : Prop :=
  ∀ (s : State) (delay : Nat), s.bus.trimPulseOut = true →
    let measured := { s.bus with trimPulseOut := false, trimDelays := s.bus.trimDelays ++ [delay], gap := 0 }
    (s.bus.trimDelays.length < 7 → Effects (.trimPulseMeasured delay) s { s with bus := measured }) ∧
    (s.bus.trimDelays.length = 7 → (∀ d ∈ s.bus.trimDelays, d ≤ 250) → delay ≤ 250 →
      Effects (.trimPulseMeasured delay) s
        { s with bus := { measured with
            trimValid := true
            start := some .rate
            rateRequest := some (newRequest s.bus.nextRequest .rate 4 31 0x02 [1])
            nextRequest := s.bus.nextRequest + 1 } }) ∧
    (s.bus.trimDelays.length = 7 → (∃ d ∈ s.bus.trimDelays, 250 < d) ∨ 250 < delay →
      ∃ u : State, exec (.trimPulseMeasured delay) s = .next (settle u) ∧ u.bus.trimValid = false ∧
        u.bus.degraded = true ∧ u.port.degraded = true ∧ u.bus.rateRequest = s.bus.rateRequest)

/-! ## The Plate Controller's timers -/

/-- The motion timer fails the order with MOTION_TIMEOUT, a member's exposure or frame timer with CAMERA_TIMEOUT, the
dry timer with OUTPUT_STARVED; in a capture JAMMED fails it with MOTION_FAULT, HOT with LAMP_FAULT, LID_OPENED outside
INTERLOCK with LID_OPEN. The code reaches the Order Walker with the counts, and the member records are empty then (the
model's choice, log 61). -/
def Obligations.EventsFailTheActiveOrder : Prop :=
  (∀ s : State, CanFail s →
    (∀ left, s.plate.motionTimer = some left → FailsActive .motionTimerExpiry s .motionTimeout) ∧
    (∀ place m left, s.plate.members[place]? = some m → m.exposureTimer = some left →
      FailsActive (.exposureTimerExpiry place) s .cameraTimeout) ∧
    (∀ place m left, s.plate.members[place]? = some m → m.frameTimer = some left →
      FailsActive (.frameTimerExpiry place) s .cameraTimeout) ∧
    (∀ left, s.writer.dryTimer = some left → FailsActive .dryTimerExpiry s .outputStarved)) ∧
  (∀ s : State, canReceive s.bus = true → capturing s = true → CanFail s →
    (∀ x y : Word32, FailsActive (.jammed x y) s .motionFault) ∧
    (∀ t : Word16, FailsActive (.hot t) s .lampFault) ∧
    (s.plate.phase ≠ .interlock → FailsActive .lidOpened s .lidOpen))

/-- In SHUTDOWN with no telegram outstanding the end is reported once both marks are clear and both lamps DARK, a pulse
on the line or not (log 11); before that HALT at priority 1 while the moving mark is set, then DARK, then RING_OFF are
sent, and nothing while a pulse is made or awaited; a SERVICE order reports at once; after the report nothing is sent.
DONE_NOW clears the mark or darkens the lamp; another reply, or the last silent or busy slot, is a further failure and
sets the fallback mark, which asks for a clear pulse, or joins one. A pulse of the bus controller's own is one more
failure (log 12), one that began in the capture too (log 56), with both marks clear and both lamps DARK. -/
def Obligations.ShutdownDarkensAndReports : Prop :=
  (∀ (s : State) (o : PlateOrder), s.plate.phase = .shutdown → s.plate.order = some o →
    let quiet := s.plate.movingMark = false ∧ s.plate.fallbackMark = false ∧ s.plate.panel = .dark ∧
      s.plate.ring = .dark
    let reports := fun (tile : Option Nat) (ended : Bool) => plateAdvance s = some
      { s with
        plate := { s.plate with shutdownReported := true }
        walker := { s.walker with active := s.walker.active.map fun a =>
          { a with
            retakes := s.plate.retakes, lateEvents := s.plate.lateEvents, thickness := s.plate.thickness.getD 0
            captureEnded := true, workEnded := a.workEnded || ended } }
        writer := if s.writer.params.isSome then { s.writer with captureEnded := true, interrupted := tile }
          else s.writer }
    let sends := fun (step : PlateStep) (priority target : Nat) (command : Byte) => plateAdvance s = some
      { s with
        plate := { s.plate with awaiting := some step }
        bus := { s.bus with
          queue := queueInsert (newRequest s.bus.nextRequest .plate priority target command []) s.bus.queue
          nextRequest := s.bus.nextRequest + 1 } }
    (s.plate.awaiting ≠ none ∨ s.plate.shutdownReported = true → plateAdvance s = none) ∧
    (s.plate.awaiting = none → s.plate.shutdownReported = false →
      (∀ b, o.body = .service b → reports none true) ∧
      ((∀ b, o.body ≠ .service b) →
        (quiet → reports s.plate.interrupted false) ∧
        (¬quiet → s.plate.fallbackMark = true ∨ s.bus.line = .clearing → plateAdvance s = none) ∧
        (s.plate.fallbackMark = false → s.bus.line ≠ .clearing → queueHasRoom s = true →
          (s.plate.movingMark = true → sends .shutdownHalt 1 1 0x11) ∧
          (s.plate.movingMark = false → s.plate.panel ≠ .dark → sends .shutdownDark 4 2 0x21) ∧
          (s.plate.movingMark = false → s.plate.panel = .dark → s.plate.ring ≠ .dark →
            sends .shutdownRingOff 4 3 0x31))))) ∧
  (∀ (s : State) (r : BusRequest) (a : ActiveOrder) (step : PlateStep), s.bus.line = .receiving →
    s.bus.attempt = some r.number → findRequest r.number s.bus = some r → r.requester = .plate →
    s.plate.awaiting = some step → s.plate.phase = .shutdown → s.walker.active = some a → a.ending = false →
    let lampOff := step = .shutdownDark ∨ step = .shutdownRingOff
    let answered := fun (bytes : List Byte) (plate : Plate) => Effects (.replyReceived bytes) s
      { s with
        plate := plate
        bus := removeRequest r.number
          { s.bus with line := .idle, gap := 0, breakOff := false, attempt := none, corruptRun := 0 } }
    let further := fun (command : Instr) (code : ResultCode) => ∃ u b, exec command s = .next (settle u) ∧
      u.plate.phase = .shutdown ∧ u.plate.awaiting = none ∧ u.plate.fallbackMark = true ∧
      u.walker.active = some b ∧ b.primary = (if a.primary = .none then code else a.primary) ∧
      b.secondary = (if a.primary ≠ .none ∧ a.secondary = .none then code else a.secondary)
    (∀ bytes data, readReply r.command bytes = some (1, data) →
      (step = .shutdownHalt → answered bytes { s.plate with awaiting := none, movingMark := false }) ∧
      (step = .shutdownDark → answered bytes { s.plate with awaiting := none, panel := .dark }) ∧
      (step = .shutdownRingOff → answered bytes { s.plate with awaiting := none, ring := .dark })) ∧
    (∀ bytes code data, readReply r.command bytes = some (code, data) → code = 2 ∨ code = 3 →
      (step = .shutdownHalt → further (.replyReceived bytes) .motionFault) ∧
      (lampOff → further (.replyReceived bytes) .lampFault)) ∧
    (step = .shutdownHalt ∨ lampOff →
      (∀ bytes data, readReply r.command bytes = some (4, data) → 5 ≤ r.busy →
        further (.replyReceived bytes) .busFailure) ∧
      (r.spoiled = 2 → further .replySlotTimeout .busFailure))) ∧
  (∀ s : State, s.plate.fallbackMark = true →
    (s.bus.pendingClear = none → s.bus.queue = [] → s.bus.rateRequest = none →
      ∃ u, fallbackAdvance s = some u ∧ u.bus.line = .clearing ∧ u.bus.pendingClear = some [.plate] ∧
        u.bus.clearOwn = false ∧ u.plate = s.plate) ∧
    (∀ requesters, s.bus.pendingClear = some requesters → .plate ∉ requesters → fallbackAdvance s = some
      { s with bus := { s.bus with pendingClear := some (requesters ++ [.plate]) } })) ∧
  ∀ (s : State) (a : ActiveOrder), s.bus.line = .clearing → s.bus.clearOwn = true → s.bus.start = none →
    s.port.runState ≠ .aborting → s.plate.phase = .shutdown → plateService s = false →
    s.plate.shutdownReported = false → s.walker.active = some a → a.ending = false →
    ∃ u b, exec .clearPulseEnd s = .next (settle u) ∧
      u.plate = { s.plate with
        lid := .unknown, panel := .dark, ring := .dark, movingMark := false, fallbackMark := false } ∧
      u.walker.active = some b ∧ b.primary = (if a.primary = .none then .busFailure else a.primary) ∧
      b.secondary = (if a.primary ≠ .none ∧ a.secondary = .none then .busFailure else a.secondary)

/-! ## The Pixel Link and Frame Intake -/

/-- A tag that is not on the list: a ROW, of whatever length, is discarded and reported to no one, and so is one too
short to hold a tag (log 43); EXPOSED and FRAME_END count as a late event where an order is ACTIVE. An unknown packet
does nothing. -/
def Obligations.UnlistedPacketsAreNotUsed : Prop :=
  (∀ (s : State) (tag : Byte), triggerOf tag s = none →
    let late := { s with plate := { s.plate with
      lateEvents := s.plate.lateEvents + (if s.plate.order.isSome then 1 else 0) } }
    (∀ rest row samples check, Effects (.rowPacket (tag :: rest) row samples check) s s) ∧
      Effects (.exposedPacket tag) s late ∧ ∀ count, Effects (.frameEndPacket tag count) s late) ∧
  ∀ s : State, Effects (.rowPacket [] [] [] []) s s ∧ ∀ bytes, exec (.unknownPacket bytes) s = .next s

/-- EXPOSED of an entry that awaits it makes the entry STREAMING and the member STREAMING with the exposure timer
stopped and the frame timer started; a PLATE tile's next WAITING member then begins its lamp step, and after the last
the lamps go off; a repeated EXPOSED does nothing. FRAME_END is a mark behind the rows in the FIFO, whatever its level;
where the entry still awaits EXPOSED, that is reported first and the damage mark set, and so it is by a ROW of such an
entry, which is discarded. A frame's end makes its FILLING slot FULL exactly when the entry is undamaged, all 4096 rows
came in sequence and FRAME_END reported 4096. That a REFERENCE frame's timers stand in a member record is the model's
choice (log 62). -/
def Obligations.ExposedAndFrameEndFrameTheRows : Prop :=
  (∀ (s : State) (tag : Byte) (e : Trigger) (place : Nat) (o : PlateOrder), triggerOf tag s = some e →
    memberOfTag tag s = some place → s.plate.order = some o →
    let listed := fun damaged : Bool => { s.intake with
      triggers := s.intake.triggers.map fun t =>
        if t.tag = tag then { t with phase := .streaming, damaged := damaged || t.damaged } else t }
    let streaming := s.plate.members.modify place fun m =>
      { m with phase := .streaming, exposureTimer := none, frameTimer := some o.frame }
    let marked := fun (i : Intake) (count : Word16) => { i with fifo := i.fifo ++ [.frameEnd tag count.toNat] }
    let effect := fun (plate : Plate) =>
      Effects (.exposedPacket tag) s { s with intake := listed false, plate := plate } ∧
        (∀ count, Effects (.frameEndPacket tag count) s
          { s with intake := marked (listed true) count, plate := plate }) ∧
        ∀ first row samples check : List Byte, (first ++ row ++ samples ++ check).head? = some tag →
          e.damaged = false → (∀ count, .frameEnd tag count ∉ s.intake.fifo) →
          Effects (.rowPacket first row samples check) s { s with intake := listed true, plate := plate }
    (e.phase = .awaitingExposed →
      (∀ b, o.body = .reference b → effect { s.plate with members := streaming }) ∧
      ∀ b, o.body = .plate b →
        (∀ next m, streaming[next]? = some m → m.phase = .waiting →
          (∀ k, k < next → ∀ q, streaming[k]? = some q → q.phase ≠ .waiting) →
          effect { s.plate with
            members := streaming.modify next fun m => { m with phase := .lighting }
            plan := memberPlan b next m }) ∧
        ((∀ q ∈ streaming, q.phase ≠ .waiting) →
          effect { s.plate with members := streaming, plan := [.dark, .ringOff, .lampsOff] })) ∧
    (e.phase = .streaming →
      Effects (.exposedPacket tag) s s ∧
        ∀ count, Effects (.frameEndPacket tag count) s { s with intake := marked s.intake count })) ∧
  ∀ (s : State) (e : Trigger) (count : Nat), e.slot < s.intake.slots.length →
    (slotAt s e.slot).state = .filling →
    ((slotAt (endFrame e count s) e.slot).state = .full ↔ e.damaged = false ∧ e.expected = 4096 ∧ count = 4096)

/-- A whole, well checked ROW in sequence joins the FIFO, which holds fewer than 64 rows, and moves the expected row on;
in FLOWING the row that brings the level to 48 or more sends PAUSE, in PAUSED one that leaves it at 16 or less sends
RESUME, and in PAUSE_SENT and RESUME_SENT none sends anything. A bad one, one of any other length among them, and a good
one that finds 64 rows, only sets the damage mark; after it, and after the tag's FRAME_END, nothing happens. The ROW of
an entry that still awaits EXPOSED joins nothing: it makes the entry STREAMING and damaged. -/
def Obligations.RowsJoinTheFifo : Prop :=
  (∀ (s : State) (tag : Byte) (first row samples check : List Byte) (e : Trigger), triggerOf tag s = some e →
    (first ++ row ++ samples ++ check).head? = some tag →
    let packet := Instr.rowPacket first row samples check
    let bytes := first ++ row ++ samples ++ check
    let damaged := { s with intake := { s.intake with
      triggers := s.intake.triggers.map fun t => if t.tag = tag then { t with damaged := true } else t } }
    let joined := { s.intake with
      fifo := s.intake.fifo ++ [.row tag (leNat ((bytes.drop 1).take 2)) ((bytes.drop 3).take 7168)]
      triggers := s.intake.triggers.map fun t => if t.tag = tag then { t with expected := t.expected + 1 } else t }
    let asks := fun (flow : FlowState) (request : BackPacket) => Effects packet s
      { s with intake := { joined with
          flow := flow, sends := 1, ackTimer := some 10, sent := s.intake.sent ++ [request] } }
    (e.damaged = true → Effects packet s s) ∧
    ((∃ count, .frameEnd tag count ∈ s.intake.fifo) → Effects packet s s) ∧
    ((∀ count, .frameEnd tag count ∉ s.intake.fifo) → e.damaged = false →
      (e.phase = .streaming →
        (rowGood e bytes = false → Effects packet s damaged) ∧
        (rowGood e bytes = true →
          (fifoLevel s = 64 → Effects packet s damaged) ∧
          (fifoLevel s < 64 →
            (s.intake.flow = .flowing → 47 ≤ fifoLevel s → asks .pauseSent .pause) ∧
            (s.intake.flow = .paused → fifoLevel s < 16 → asks .resumeSent .resume) ∧
            ((s.intake.flow = .flowing → fifoLevel s < 47) → (s.intake.flow = .paused → 16 ≤ fifoLevel s) →
              Effects packet s { s with intake := joined })))) ∧
      (e.phase = .awaitingExposed → ∃ plate : Plate, Effects packet s
        { s with
          plate := plate
          intake := { s.intake with triggers := s.intake.triggers.map fun t =>
            if t.tag = tag then { t with phase := .streaming, damaged := true } else t } }))) ∧
  ∀ (e : Trigger) (tag : Byte) (rest : List Byte),
    rowGood e (tag :: rest) = true ↔ 2 + rest.length = 7174 ∧
      crc16 (tag :: rest.take 7170) = BitVec.ofNat 16 (leNat (rest.drop 7170)) ∧
      leNat (rest.take 2) = e.expected ∧ leNat (rest.take 2) < 4096

/-- A row at the FIFO's head with its entry listed and undamaged leaves it and is written at row × 8192 of its slot:
sample i is bits 14 × i to 14 × i + 13 of the packed stream, bit b of which is bit b mod 8 of byte b div 8; its two
bytes lie least significant first, and every byte outside the row reads as before. A row of any other tag or entry is
dropped with no byte changed. In PAUSED a row that leaves the level at 16 or less sends RESUME; nothing else of Frame
Intake changes. -/
def Obligations.FifoRowLandsUnpacked : Prop :=
  let left := fun (s : State) (rest : List FifoItem) =>
    if s.intake.flow = .paused ∧ (rest.filter isRow).length ≤ 16 then
      { s.intake with
        fifo := rest, flow := .resumeSent, sends := 1, ackTimer := some 10, sent := s.intake.sent ++ [.resume] }
    else { s.intake with fifo := rest }
  (∀ (s : State) (tag : Byte) (row : Nat) (samples : List Byte) (rest : List FifoItem) (e : Trigger),
    s.intake.fifo = .row tag row samples :: rest → triggerOf tag s = some e → e.damaged = false →
    samples.length = 7168 →
    ∃ u : State, exec .fifoRowWritten s = .next (settle u) ∧ u.intake = left s rest ∧
      let base := e.slot * 33554432 + row * 8192
      let sample := fun i : Nat => bitsNat (((streamBits samples).drop (14 * i)).take 14)
      (∀ i < 4096, sample i < 16384 ∧
        memoryRead u.frame (base + 2 * i) = some (BitVec.ofNat 8 (sample i)) ∧
        memoryRead u.frame (base + 2 * i + 1) = some (BitVec.ofNat 8 (sample i / 256))) ∧
      ∀ a, a < base ∨ base + 8192 ≤ a → memoryRead u.frame a = memoryRead s.frame a) ∧
  (∀ (bytes : List Byte) (b : Nat), b < 8 * bytes.length →
    (streamBits bytes)[b]? = (bytes[b / 8]?).map fun byte => byte.getLsbD (b % 8)) ∧
  (∀ (s : State) (tag : Byte) (row : Nat) (samples : List Byte) (rest : List FifoItem),
    s.intake.fifo = .row tag row samples :: rest → (∀ e, triggerOf tag s = some e → e.damaged = true) →
    ∃ u : State, exec .fifoRowWritten s = .next (settle u) ∧ u.intake = left s rest ∧
      ∀ a, memoryRead u.frame a = memoryRead s.frame a)

/-- An ACK against the outstanding request, with the level examined afresh; any other ACK is discarded. That the count
of sends stands while no request is outstanding is the model's choice (log 64). -/
def Obligations.AcksAnswerTheOutstandingRequest : Prop :=
  ∀ s : State,
    let flow := fun (f : FlowState) => { s.intake with flow := f, ackTimer := none }
    let sentAnew := fun (f : FlowState) (p : BackPacket) =>
      { s with intake := { s.intake with
          flow := f, sends := 1, ackTimer := some 10, sent := s.intake.sent ++ [p] } }
    (s.intake.flow = .pauseSent →
      (16 < fifoLevel s → Effects (.ackPacket 1) s { s with intake := flow .paused }) ∧
      (fifoLevel s ≤ 16 → Effects (.ackPacket 1) s (sentAnew .resumeSent .resume))) ∧
    (s.intake.flow = .resumeSent →
      (fifoLevel s < 48 → Effects (.ackPacket 2) s { s with intake := flow .flowing }) ∧
      (48 ≤ fifoLevel s → Effects (.ackPacket 2) s (sentAnew .pauseSent .pause))) ∧
    (s.intake.flow = .flowing →
      (16 < fifoLevel s → Effects (.ackPacket 1) s { s with intake := { s.intake with flow := .paused } }) ∧
      (fifoLevel s ≤ 16 → Effects (.ackPacket 1) s (sentAnew .resumeSent .resume))) ∧
    ∀ which : Byte, ¬(which = 1 ∧ (s.intake.flow = .pauseSent ∨ s.intake.flow = .flowing)) →
      ¬(which = 2 ∧ s.intake.flow = .resumeSent) → Effects (.ackPacket which) s s

/-- The ack timer sends the outstanding request again while it was sent once or twice; after the third the link is
stalled: FLOWING with the timer stopped, and an order in its capture fails with CAMERA_TIMEOUT. The member records empty
then (log 61) and the count of sends standing after a stall (log 64) are the model's choices. -/
def Obligations.AckTimerResendsOrStalls : Prop :=
  ∀ (s : State) (left : Nat), s.intake.ackTimer = some left →
    (s.intake.sends < 3 → s.intake.flow = .pauseSent ∨ s.intake.flow = .resumeSent →
      Effects .ackTimerExpiry s
        { s with intake := { s.intake with
            sends := s.intake.sends + 1
            ackTimer := some 10
            sent := s.intake.sent ++ [if s.intake.flow = .pauseSent then .pause else .resume] } }) ∧
    (3 ≤ s.intake.sends → capturing s = false →
      Effects .ackTimerExpiry s { s with intake := { s.intake with flow := .flowing, ackTimer := none } }) ∧
    (3 ≤ s.intake.sends → capturing s = true → CanFail s → FailsActive .ackTimerExpiry s .cameraTimeout)

/-- A reservation is granted whole once that many slots are FREE: the lowest-numbered become RESERVED for the ACTIVE
order, for a PLATE tile its members' slots, for a REFERENCE order two accumulators and the frame slot, or the next
frame's slot; with fewer FREE it stays. A trigger request that names no RESERVED or DAMAGED slot of the ACTIVE order is
refused; one that does waits while 5 triggers are outstanding, and else takes the first tag from the next one on that
none of them carries: the slot FILLING, TRIGGER sent, the exposure timer started. A cancel of a listed tag takes its
entry off, sends CANCEL and makes its FILLING slot DAMAGED; of another it does nothing. An exposure timer's expiry
cancels every outstanding trigger of the tile, frees its slots and withdraws the reservation. -/
def Obligations.SlotsAreReservedTriggeredAndReleased : Prop :=
  (∀ (s : State) (count : Nat) (o : PlateOrder), s.intake.reservation = some count → s.plate.order = some o →
    let free := (List.range s.intake.slots.length).filter fun n => (slotAt s n).state = .free
    let granted := free.take count
    let reserved : Slot := ⟨.reserved, none, activeNumber s⟩
    (free.length < count → grantAdvance s = none) ∧
    (count ≤ free.length → ∃ u, grantAdvance s = some u ∧ u.intake.reservation = none ∧
      (∀ b, o.body = .plate b →
        u.plate.phase = .moving ∧ u.plate.recheckTimer = none ∧ u.plate.members.map Member.slot = granted ∧
          (∀ m ∈ u.plate.members, m.phase = .waiting ∧ m.tag = none) ∧
          ∀ n < s.intake.slots.length, slotAt u n = if n ∈ granted then reserved else slotAt s n) ∧
      ∀ b, o.body = .reference b →
        (∀ low high frame, granted = [low, high, frame] →
          u.plate.frameSlot = some frame ∧ u.plate.recheckTimer = none ∧
            u.cache.work = (s.cache.work.map fun w => { w with accumulators := some (low, high) }) ∧
            ∀ n < s.intake.slots.length, slotAt u n =
              if n = low ∨ n = high then { reserved with state := .accumulator }
              else if n = frame then reserved else slotAt s n) ∧
        ∀ frame, granted = [frame] → u = { s with
          plate := { s.plate with frameSlot := some frame }
          intake := { s.intake with
            reservation := none, slots := s.intake.slots.modify frame fun _ => reserved } })) ∧
  (∀ (s : State) (r : TriggerRequest) (o : PlateOrder), s.intake.waitingTrigger = some r → s.plate.order = some o →
    let asked := { s.intake with waitingTrigger := none }
    let allowed := ((slotAt s r.slot).state = .reserved ∨ (slotAt s r.slot).state = .damaged) ∧
      ∃ a, s.walker.active = some a ∧ (slotAt s r.slot).owner = some a.number
    (¬allowed → triggerAdvance s = some { s with intake := asked }) ∧
    (allowed → 5 ≤ s.intake.triggers.length → triggerAdvance s = none) ∧
    (allowed → s.intake.triggers.length < 5 → ∃ (passed : Nat) (tag : Byte),
      tag = s.intake.nextTag + BitVec.ofNat 8 passed ∧ (∀ t ∈ s.intake.triggers, t.tag ≠ tag) ∧
      (∀ j < passed, ∃ t ∈ s.intake.triggers, t.tag = s.intake.nextTag + BitVec.ofNat 8 j) ∧
      triggerAdvance s = some
        { s with
          intake := { asked with
            nextTag := tag + 1
            triggers := s.intake.triggers ++ [⟨tag, r.slot, .awaitingExposed, 0, false⟩]
            slots := s.intake.slots.modify r.slot fun x => { x with state := .filling, tag := some tag }
            sent := s.intake.sent ++ [.trigger tag r.step] }
          plate := { s.plate with members := s.plate.members.modify r.place fun m =>
            { m with
              tag := some tag, phase := .exposing, exposureTimer := some (o.exposure.getD r.step 0 + o.frame) } } })) ∧
  (∀ (s : State) (tag : Byte),
    ((∀ e ∈ s.intake.triggers, e.tag ≠ tag) → cancelTag tag s = s) ∧
    ∀ e, triggerOf tag s = some e → cancelTag tag s =
      { s with intake := { s.intake with
          triggers := s.intake.triggers.filter fun t => t.tag ≠ tag
          sent := s.intake.sent ++ [.cancel tag]
          slots := s.intake.slots.modify e.slot fun x =>
            if x.state = .filling ∧ x.tag = some tag then { x with state := .damaged, tag := none } else x } }) ∧
  ∀ (s : State) (place left : Nat) (m : Member), s.plate.members[place]? = some m → m.exposureTimer = some left →
    CanFail s → ∃ u : State, exec (.exposureTimerExpiry place) s = .next (settle u) ∧ u.intake.reservation = none ∧
      u.intake.waitingTrigger = none ∧
      ∀ x ∈ s.plate.members, x.slot < s.intake.slots.length →
        ((slotAt s x.slot).state ≠ .merging → (slotAt s x.slot).state ≠ .accumulator →
          (slotAt u x.slot).state = .free) ∧
        ∀ tag e, (slotAt s x.slot).state = .filling → (slotAt s x.slot).tag = some tag → triggerOf tag s = some e →
          .cancel tag ∈ u.intake.sent ∧ triggerOf tag u = none

/-! ## The Merge Engine -/

/-- A member is valid when its sample is at most the ceiling and its signal at least the floor, of the clamped bounds 1
≤ floor < ceiling ≤ 16383. The decision for a pixel: a flat defect before all, the ratio of the valid members, that of
the clipped member with the smallest dose, or too dark; every code lies in 0..16383, a CLIPPED_LOW pixel carries 16383,
a num above den gives 0. Four worked pixels of the manual and its built-in tone table's two ends. -/
def Obligations.PixelDecision : Prop :=
  (∀ b : PlateBody, 1 ≤ (clampPlate b).floor ∧ (clampPlate b).floor < (clampPlate b).ceiling ∧
    (clampPlate b).ceiling ≤ 16383) ∧
  (∀ (b : MergeBounds) (m : MemberPixel),
    memberValid b m = true ↔ m.sample ≤ b.ceiling ∧ b.floor ≤ m.sample - m.dark) ∧
  (∀ (b : MergeBounds) (flat flatDose : Nat) (members : List MemberPixel),
    let valid := members.filter (memberValid b)
    let num := (valid.map fun m => m.sample - m.dark).sum * flatDose
    let den := flat * (valid.map MemberPixel.dose).sum
    let result := decidePixel b flat flatDose members
    (flat < b.flatFloor → result = ⟨.clippedLow, 16383, false, true⟩) ∧
    (b.flatFloor ≤ flat → valid ≠ [] →
      result = ⟨if valid.length = 1 then .single else .merged, densityCode num den, decide (den < num), false⟩) ∧
    (b.flatFloor ≤ flat → valid = [] →
      ∀ (before : List MemberPixel) (j : MemberPixel) (after : List MemberPixel), members = before ++ j :: after →
        b.ceiling < j.sample → (∀ m ∈ before, b.ceiling < m.sample → j.dose < m.dose) →
        (∀ m ∈ after, b.ceiling < m.sample → j.dose ≤ m.dose) →
        let num := max (b.ceiling - j.dark) 1 * flatDose
        let den := flat * j.dose
        result = ⟨.clippedHigh, densityCode num den, decide (den < num), false⟩) ∧
    (b.flatFloor ≤ flat → valid = [] → (∀ m ∈ members, m.sample ≤ b.ceiling) →
      result = ⟨.clippedLow, 16383, false, false⟩)) ∧
  ((∀ (b : MergeBounds) (flat flatDose : Nat) (members : List MemberPixel),
    let r := decidePixel b flat flatDose members
    r.code ≤ 16383 ∧ (r.cls = .clippedLow → r.code = 16383)) ∧
  ∀ num den : Nat, densityCode num den = if den < num then 0 else min (logCode den - logCode num) 16383) ∧
  (let bounds : MergeBounds := ⟨64, 15800, 64⟩
  let m1 : MemberPixel := ⟨9000, 200, 400⟩
  let m2 : MemberPixel := ⟨2400, 190, 100⟩
  densityWord (decidePixel bounds 12000 100 [m1]) = 19402 ∧
    densityWord (decidePixel bounds 12000 100 [m1, m2]) = 3016 ∧
    densityWord (decidePixel bounds 12000 100 [⟨16383, 200, 400⟩, ⟨16383, 210, 1600⟩]) = 34767 ∧
    densityWord (decidePixel bounds 40 100 [m1, m2]) = 65535 ∧
    positive16 .builtIn 3018 = 53471 ∧ positive16 .builtIn 0 = 65535 ∧ positive16 .builtIn 16383 = 15)

/-- The DENSITY word is class × 16384 + code, 16 bits, two bytes least significant first, 8192 bytes a row; class and
code are read back by division, and the word of a CLIPPED_LOW pixel is 65535. The mask bit is 1 exactly when the
dark-field sample exceeds its dark by more than the threshold, at least 1 after its clamp; a tile without a dark-field
member has no mask bits, and its order no MASK plane. -/
def Obligations.DensityWordHoldsClassAndCode : Prop :=
  (∀ (b : MergeBounds) (flat flatDose : Nat) (members : List MemberPixel),
    let r := decidePixel b flat flatDose members
    densityWord r = classNumber r.cls * 16384 + r.code ∧ densityWord r < 65536 ∧
      densityWord r / 16384 = classNumber r.cls ∧ densityWord r - 16384 * classNumber r.cls = r.code ∧
      (r.cls = .clippedLow → densityWord r = 65535)) ∧
  (classNumber .merged = 0 ∧ classNumber .single = 1 ∧ classNumber .clippedHigh = 2 ∧
    classNumber .clippedLow = 3) ∧
  (∀ (mirror : Bool) (results : List PixelResult),
    densityBytes mirror results = (mirrored mirror results).flatMap (fun r => leBytes 2 (densityWord r)) ∧
      (results.length = 4096 → (densityBytes mirror results).length = 8192)) ∧
  (∀ sample dark threshold : Nat, 1 ≤ threshold →
    (maskBit sample dark threshold = true ↔ dark < sample ∧ threshold < sample - dark)) ∧
  (∀ d : DarkfieldSpec, 1 ≤ (clampDarkfield d).threshold) ∧
  (∀ b : PlateBody, (clampPlate b).darkfield = none → (clampPlate b).mask = false) ∧
  ∀ (s : State) (p : MergeParams) (t : MergeTile), p.darkfield = none ∨ t.darkSlot = none → rowMask s p t = []

/-- A computed row before row 4095 joins the row queue and is counted, and the next row is begun, or held where HOLD is
raised; every pixel adds one to one of the four class counts. The row's results are the decisions of its 4096 pixels
over the samples of the tile's slots, the darks and the flat at that row, a reference above 16383 taken as 16383, and
its mask bits compare the dark-field sample with its dark. Position i of each plane selected holds the pixel of column
i, or of column 4095 - i under mirror: the DENSITY word, the tone bank's entry at code div 4 as 16 bits or, at width 8,
its upper byte, the mask bit packed eight to a byte, the first lowest; a plane not selected is empty. -/
def Obligations.ComputedRowJoinsTheQueue : Prop :=
  (∀ (s : State) (p : MergeParams) (t : MergeTile) (rest : List MergeTile), s.merge.phase = .merging →
    s.merge.params = some p → s.merge.queue = t :: rest → s.merge.row < 4095 →
    let results := rowResults s p t
    let entry := rowEntry s p t results (rowMask s p t)
    let stats := countRow s.merge.stats results (rowMask s p t)
    let queue := s.writer.queue ++ [.row entry]
    let hold : Bool := s.writer.hold || queueLevel queue = 48
    Effects .rowComputed s
        { s with
          writer := { s.writer with queue := queue, hold := hold }
          merge := { s.merge with
            phase := if hold then .held else .merging, row := s.merge.row + 1, stats := stats } } ∧
      entry.tile = t.tile ∧ entry.row = s.merge.row ∧
      stats.merged + stats.single + stats.clippedHigh + stats.clippedLow =
        s.merge.stats.merged + s.merge.stats.single + s.merge.stats.clippedHigh + s.merge.stats.clippedLow + 4096) ∧
  ∀ (s : State) (p : MergeParams) (t : MergeTile), Memory.wf s.frame →
    let byte := fun a : Nat => (memoryRead s.frame a).getD (Config.undefinedFrameByte s.powerOns a)
    let value := fun (base c : Nat) =>
      (byte (base + s.merge.row * 8192 + 2 * c)).toNat + 256 * (byte (base + s.merge.row * 8192 + 2 * c + 1)).toNat
    let sample := fun slot c : Nat => value (slot * 33554432) c
    let reference := fun entry c : Nat => min (value (536870912 + entry * 33554432) c) 16383
    let result := fun c : Nat =>
      decidePixel ⟨p.floor, p.ceiling, p.flatFloor⟩ (reference p.flat c) p.flatDose
        (List.zipWith (fun slot m => ⟨sample slot c, reference m.dark c, m.dose⟩) t.slots p.members)
    let bank := if p.bank = 0 then s.walker.bank0 else s.walker.bank1
    let tone := fun c : Nat =>
      match bank.table with
      | .builtIn => 65535 - 16 * ((result c).code / 4)
      | .host values => values.getD ((result c).code / 4) 0
    let low := fun v : Nat => some (BitVec.ofNat 8 v)
    let high := fun v : Nat => some (BitVec.ofNat 8 (v / 256))
    let column := fun i : Nat => if p.mirror then 4095 - i else i
    let entry := rowEntry s p t (rowResults s p t) (rowMask s p t)
    ((rowResults s p t).length = 4096 ∧ ∀ c < 4096, (rowResults s p t)[c]? = some (result c)) ∧
    (p.density = false → entry.density = []) ∧
    (p.density = true → entry.density.length = 8192 ∧ ∀ i < 4096,
      entry.density[2 * i]? = low (densityWord (result (column i))) ∧
        entry.density[2 * i + 1]? = high (densityWord (result (column i)))) ∧
    (p.positive = false → entry.positive = []) ∧
    (p.positive = true → p.width = 8 → entry.positive.length = 4096 ∧ ∀ i < 4096,
      entry.positive[i]? = high (tone (column i))) ∧
    (p.positive = true → p.width ≠ 8 → entry.positive.length = 8192 ∧ ∀ i < 4096,
      entry.positive[2 * i]? = low (tone (column i)) ∧ entry.positive[2 * i + 1]? = high (tone (column i))) ∧
    (p.mask = false → entry.mask = []) ∧
    ∀ dark threshold slot, p.darkfield = some (dark, threshold) → t.darkSlot = some slot →
      let bit := fun c : Nat => decide (threshold < sample slot c - reference dark c)
      ((rowMask s p t).length = 4096 ∧ ∀ c < 4096, (rowMask s p t)[c]? = some (bit c)) ∧
      (p.mask = true → entry.mask.length = 512 ∧ ∀ i < 4096,
        (entry.mask[i / 8]?).map (fun b => b.getLsbD (i % 8)) = some (bit (column i)))

/-- Row 4095 ends the tile: its end mark follows its row with the finished statistics, its slots are FREE, it leaves the
merge tile queue and the statistics are 0; the current row then is 0 (the model's choice, log 40). -/
def Obligations.LastRowEndsTheTile : Prop :=
  ∀ (s : State) (p : MergeParams) (t : MergeTile) (rest : List MergeTile), s.merge.phase = .merging →
    s.merge.params = some p → s.merge.queue = t :: rest → s.merge.row = 4095 →
    let results := rowResults s p t
    let entry := rowEntry s p t results (rowMask s p t)
    let stats := countRow s.merge.stats results (rowMask s p t)
    ∃ u : State, exec .rowComputed s = .next (settle u) ∧
      u.writer.queue = s.writer.queue ++ [.row entry, .endMark ⟨t.tile, t.x, t.y, t.retakes, stats⟩] ∧
      entry.tile = t.tile ∧ entry.row = 4095 ∧ u.merge.queue = rest ∧ u.merge.stats = .zero ∧ u.merge.row = 0 ∧
      (u.merge.phase = if rest.isEmpty then .idle else .waiting) ∧
      ∀ n ∈ t.slots ++ t.darkSlot.toList, (slotAt s n).state = .merging → n < s.intake.slots.length →
        (slotAt u n).state = .free

/-! ## The Tile Writer -/

/-- A scan of a pool, the common one or the order's reserved one, reads one entry at a time: a FREE one with a good
extent is taken by three writes, the list entry, TAKEN, the pool's take index; a FREE one whose extent is not good is
REJECTED and counted; one rejected or not FREE is passed over. At the turn's end a reserved pool is followed by the
common one, and the common one starts the dry wait, or carries it on with its timer still running. -/
def Obligations.PoolScanTakesAFreeEntry : Prop :=
  ∀ (s : State) (n : Nat) (r : ReadInProgress) (data : List Byte) (plane : Plane) (rest : List Plane) (scan : Scan)
    (p : OutputParams) (w : Settings) (own : ReservedPool), findRead n s.port = some r →
    r.purpose = .poolEntry scan.op → r.sent = true → r.length = 16 → data.length = 16 →
    s.writer.task = .scanning (plane :: rest) scan → s.writer.params = some p →
    (scan.reserved = true → p.reserved = some own) → s.port.settings = some w →
    let state := leNat (data.take 2)
    let size := leNat ((data.drop 2).take 2)
    let address := leNat ((data.drop 8).take 8)
    let good := address % 65536 = 0 ∧ 1 ≤ size ∧ size ≤ 4096 ∧ w.windowBase ≤ address ∧
      address + size * 65536 ≤ w.windowBase + w.windowSize
    let base := if scan.reserved then own.base else w.poolBase
    let count := if scan.reserved then own.count else w.poolCount
    let takeIndex := if scan.reserved then own.descriptor + 12 else w.anchor + 264
    let entry := base + 16 * scan.index
    let next := if scan.index + 1 = count then 0 else scan.index + 1
    let rejected := s.writer.rejected + (if state = 1 then 1 else 0)
    let rejection : List Request := if state = 1 then
      [⟨.write (leBytes 2 3), entry, .poolWrite, false⟩,
        ⟨.write (leBytes 4 rejected.toNat), w.anchor + 268, .poolWrite, false⟩] else []
    let after := fun (requests : List Request) (op : Nat) (writer : Writer) =>
      Effects (.readCompletion n data) s
        { s with
          nextOp := op
          port := { s.port with
            reads := s.port.reads.filter fun x => x.number ≠ n
            writerRequests := s.port.writerRequests ++ requests }
          writer := writer }
    (state = 1 → good →
      after
        [⟨.write (leBytes 8 entry ++ leBytes 8 address ++ leBytes 2 size ++ leBytes 1 (planeCode p.wide plane) ++
            leBytes 1 (s.writer.tile.getD 0) ++ leBytes 4 (leNat ((data.drop 4).take 4)) ++ zeroBytes 8),
            p.listArea + 32 * s.writer.nextList, .takeListed, false⟩,
          ⟨.write (leBytes 2 2), entry, .takeMarked, false⟩, ⟨.write (leBytes 4 next), takeIndex, .takeIndexed, false⟩]
        s.nextOp
        { s.writer with
          phase := .taking
          dryTimer := none
          recheckTimer := none
          task := .taking (plane :: rest) ⟨scan.reserved, next, ⟨s.writer.nextList, address, size, 0⟩, false⟩ }) ∧
    (state ≠ 1 ∨ ¬good →
      (scan.left ≠ 0 →
        after (rejection ++ [⟨.read 16, base + 16 * next, .poolEntry s.nextOp, false⟩]) (s.nextOp + 1)
          { s.writer with
            rejected := rejected
            task := .scanning (plane :: rest) ⟨s.nextOp, scan.reserved, next, scan.left - 1⟩ }) ∧
      (scan.left = 0 → scan.reserved = true →
        after (rejection ++ [⟨.read 16, w.poolBase + 16 * s.writer.commonTake, .poolEntry s.nextOp, false⟩])
          (s.nextOp + 1)
          { s.writer with
            rejected := rejected
            task := .scanning (plane :: rest) ⟨s.nextOp, false, s.writer.commonTake, w.poolCount - 1⟩ }) ∧
      (scan.left = 0 → scan.reserved = false →
        after rejection s.nextOp
          { s.writer with
            rejected := rejected
            phase := .dry
            dryTimer := some (s.writer.dryTimer.getD w.dry)
            recheckTimer := some w.recheck
            task := .dryWait (plane :: rest) }))

/-- The row at the head is written plane by plane: a new tile's planes begin with no extent and no fallback; a plane's
bytes go to its extent's address plus the bytes used; a plane without an extent takes one, RESULT_SPACE failing the
order when the list is full, else from the reserved pool, where one is there, not dry and the plane has not fallen back,
or the common pool. A plane's row accepted adds its bytes, closes a full extent, and after the last plane the row leaves
the queue, HOLD released at a level of 16. A take's last write accepted gives the plane its extent, moves the take index
and the next list index on, and sets the fallback flag for a take from the common pool beside a reserved one. That the
phase stays WRITING with the queue then empty is the model's choice (log 60). -/
def Obligations.RowsFillTheirExtents : Prop :=
  (∀ (s : State) (p : OutputParams) (row : RowEntry) (items : List QueueItem), s.writer.params = some p →
    s.writer.phase ≠ .finishing → s.writer.queue = .row row :: items →
    let fresh := if s.writer.tile = some row.tile then s.writer else
      { s.writer with tile := some row.tile, density := .clear, positive := .clear, mask := .clear }
    let planes := (if p.density then [Plane.density] else []) ++ (if p.positive then [.positive] else []) ++
      (if p.mask then [.mask] else [])
    (s.writer.task = .none → s.writer.phase ≠ .discarding →
      writerAdvance s = some { s with writer := { fresh with phase := .writing, task := .row planes false } }) ∧
    ∀ (plane : Plane) (rest : List Plane), s.writer.task = .row (plane :: rest) false →
      (∀ e, (planeRecord s.writer plane).current = some e →
        writerAdvance s = some
          { s with
            writer := { s.writer with task := .row (plane :: rest) true }
            port := { s.port with
              writerRequests := s.port.writerRequests ++
                writeSpan (e.address + e.used) (planeBytes row plane) .rowPart (.planeRow plane) } }) ∧
      ((planeRecord s.writer plane).current = none →
        (p.capacity ≤ s.writer.nextList → CanFail s →
          ∃ u a, writerAdvance s = some u ∧ u.walker.active = some a ∧ a.primary = .resultSpace ∧
            u.writer.phase = .discarding) ∧
        (∀ w, s.writer.nextList < p.capacity → s.port.settings = some w →
          let own := p.reserved.filter fun r => !r.dry && !(planeRecord s.writer plane).fallback
          let base := (own.map ReservedPool.base).getD w.poolBase
          let count := (own.map ReservedPool.count).getD w.poolCount
          let take := (own.map ReservedPool.take).getD s.writer.commonTake
          writerAdvance s = some
            { s with
              nextOp := s.nextOp + 1
              writer := { s.writer with
                phase := .taking, task := .scanning (plane :: rest) ⟨s.nextOp, own.isSome, take, count - 1⟩ }
              port := { s.port with writerRequests := s.port.writerRequests ++
                [⟨.read 16, base + 16 * take, .poolEntry s.nextOp, false⟩] } }))) ∧
  (∀ (s : State) (q : Requester) (r : Request) (data : List Byte) (plane : Plane) (rest : List Plane)
    (p : OutputParams) (row : RowEntry) (items : List QueueItem) (e : Extent), WriteDue s q r data →
    r.purpose = .planeRow plane → s.writer.task = .row (plane :: rest) true → s.writer.params = some p →
    s.writer.queue = .row row :: items → (planeRecord s.writer plane).current = some e →
    let t := sentState s q r data
    let used := e.used + (planeBytes row plane).length
    let full := used = e.size * 65536
    let hold : Bool := s.writer.hold && 16 < queueLevel items
    Effects .arbiterGrant s
      (modPlane plane (fun x =>
          if full then { x with current := none, last := used } else { x with current := some { e with used := used } })
        { t with
          port := { t.port with writerRequests := t.port.writerRequests ++
            if full then
              [⟨.write (leBytes 4 used ++ leBytes 1 1), p.listArea + 32 * e.listIndex + 24, .extentClose, false⟩]
            else [] }
          writer := if rest = [] then { s.writer with queue := items, hold := hold, task := .none }
            else { s.writer with task := .row rest false } })) ∧
  (∀ (s : State) (q : Requester) (r : Request) (data : List Byte) (plane : Plane) (rest : List Plane) (take : Take)
    (p : OutputParams), WriteDue s q r data → r.purpose = .takeIndexed → s.writer.task = .taking (plane :: rest) take →
    s.writer.params = some p →
    let discarding : Bool := s.writer.phase = .discarding
    Effects .arbiterGrant s
      (modPlane plane (fun x =>
          { x with
            current := some take.extent
            fallback := x.fallback || (p.reserved.isSome && !take.reserved)
            first := if x.count = 0 then take.extent.listIndex else x.first
            count := x.count + 1 })
        { sentState s q r data with writer := { s.writer with
            params := if take.reserved then
              some { p with reserved := p.reserved.map fun own => { own with take := take.nextIndex } } else some p
            commonTake := if take.reserved then s.writer.commonTake else take.nextIndex
            nextList := s.writer.nextList + 1
            phase := if discarding then .discarding else .writing
            task := if discarding then .none else .row (plane :: rest) false } })) ∧
  ∀ (w : Writer) (x : PlaneRecord), planeRecord { w with density := x } .density = x ∧
    planeRecord { w with positive := x } .positive = x ∧ planeRecord { w with mask := x } .mask = x

/-- An end mark at the head publishes its tile: the planes' extents closed, then the record's statistics and fields,
then PUBLISHED. The fields give each plane of the tile in writing its first list index, count, last bytes and fallback
flag, 0 where it has none. PUBLISHED accepted takes the mark off, adds the tile to the finished ones, counts it for the
order and for the anchor, whose count is presented; that count accepted raises TILE_END where the order asked for it.
The order in which the planes' extents are closed (log 59) and the fallback flags cleared with PUBLISHED accepted (log
66) are the model's choices. -/
def Obligations.EndMarkPublishesItsTile : Prop :=
  (∀ (s : State) (p : OutputParams) (mark : TileMark) (rest : List QueueItem), s.writer.params = some p →
    s.writer.task = .none → s.writer.phase ≠ .finishing → s.writer.phase ≠ .discarding →
    s.writer.queue = .endMark mark :: rest →
    let planes := (if p.density then [Plane.density] else []) ++ (if p.positive then [.positive] else []) ++
      (if p.mask then [.mask] else [])
    let address := p.recordArea + 128 * mark.tile
    ∃ u fields, writerAdvance s = some u ∧ u.writer.task = .publishing ∧ u.writer.queue = s.writer.queue ∧
      u.walker = s.walker ∧ u.port.writerRequests = s.port.writerRequests ++
        planes.flatMap (fun plane => (planeRecord s.writer plane).current.toList.map fun e =>
          ⟨.write (leBytes 4 e.used ++ leBytes 1 1), p.listArea + 32 * e.listIndex + 24, .extentClose, false⟩) ++
        [⟨.write (statsBytes mark.stats), address + 64, .publicationPart, false⟩,
          ⟨.write fields, address + 4, .publicationPart, false⟩,
          ⟨.write (leBytes 4 2), address, .published mark.tile, false⟩] ∧
      (∀ plane, let before := planeRecord s.writer plane
        planeRecord u.writer plane =
          if plane ∉ planes then before
          else { before with current := none, last := (before.current.map Extent.used).getD before.last }) ∧
      let group := fun plane : Plane =>
        let x := if s.writer.tile = some mark.tile then planeRecord u.writer plane else .clear
        leBytes 2 x.first ++ leBytes 2 x.count ++ leBytes 4 x.last ++ leBytes 1 x.fallback.toNat ++ zeroBytes 3
      let place := tilePosition p.nx p.originX p.originY p.stepX p.stepY mark.tile
      fields = leBytes 1 mark.tile ++ leBytes 1 (mark.tile % p.nx) ++ leBytes 1 (mark.tile / p.nx) ++ zeroBytes 1 ++
        leBytes 4 place.1 ++ leBytes 4 place.2 ++ leBytes 4 p.tag.toNat ++ leBytes 4 mark.retakes ++
        group .density ++ group .positive ++ group .mask) ∧
  (∀ (s : State) (q : Requester) (r : Request) (data : List Byte) (tile : Nat) (p : OutputParams) (w : Settings)
    (a : ActiveOrder), WriteDue s q r data → r.purpose = .published tile → s.writer.task = .publishing →
    s.writer.params = some p → s.port.settings = some w → s.walker.active = some a →
    let t := sentState s q r data
    let published := s.walker.tilesPublished + 1
    Effects .arbiterGrant s
      { t with
        port := { t.port with walkerRequests := t.port.walkerRequests ++
          [⟨.write (leBytes 4 published.toNat), w.anchor + 260, .tilesPublished p.tileEnd, false⟩] }
        walker := { t.walker with
          tilesPublished := published, active := some { a with published := a.published + 1 } }
        writer := { s.writer with
          queue := s.writer.queue.tail
          finished := s.writer.finished ++ [tile]
          tile := none, density := .clear, positive := .clear, mask := .clear
          task := .none
          phase := if s.writer.queue.tail.isEmpty then .idle else .writing } }) ∧
  ∀ (s : State) (q : Requester) (r : Request) (data : List Byte) (asked : Bool), WriteDue s q r data →
    r.purpose = .tilesPublished asked →
    let t := sentState s q r data
    Effects .arbiterGrant s (if asked then setCause .tileEnd t else t)

/-- A stopping failure of the ACTIVE order, a dry timer's expiry or an ABORT, puts the Tile Writer into DISCARDING with
its timers stopped, a take already listed going on, the abandoned requests gone (log 27); the merge tile queue is empty,
its slots FREE, each tile a failure mark. Rows are then discarded; a mark closes its tile's extents and records it
FAILED with statistics 0. With the capture ended, both queues empty and no extent open the interrupted tile's record is
FAILED, the others not finished SKIPPED in rising number; these granted, the parameters go, the phase is IDLE and the
Order Walker is told. That the current row then is 0 (log 40), that the PENDING records go on, which waiting requests
are kept (log 34), the order in which a tile's extents are closed (log 59), and a FAILED tile finished, its planes'
flags cleared, when its record is presented (logs 65, 66) are the model's choices. -/
def Obligations.StoppingFailuresFinishTheRecords : Prop :=
  (∀ (s : State) (a : ActiveOrder), s.walker.active = some a → a.ending = false → s.plate.phase ≠ .shutdown →
    s.writer.params ≠ none → s.writer.phase ≠ .discarding → s.writer.phase ≠ .finishing →
    let stopped := fun u : State =>
      u.merge = { s.merge with phase := .idle, queue := [], row := 0, stats := .zero } ∧
      u.writer = { s.writer with
        queue := s.writer.queue ++ s.merge.queue.map fun t => .failureMark ⟨t.tile, t.x, t.y, t.retakes, .zero⟩
        phase := .discarding, dryTimer := none, recheckTimer := none, task := u.writer.task } ∧
      (∀ planes t, s.writer.task = .taking planes t → u.writer.task = if t.listed then s.writer.task else .none) ∧
      (∀ d, s.writer.task = .activating d → u.writer.task = .activating none) ∧
      ((∀ planes t, s.writer.task ≠ .taking planes t) → (∀ d, s.writer.task ≠ .activating d) →
        u.writer.task = .none) ∧
      (u.port.writerRequests = s.port.writerRequests.filter fun r =>
        !discardedPurpose (takeListed s.writer) r.purpose) ∧
      ∀ t ∈ s.merge.queue, ∀ n ∈ t.slots ++ t.darkSlot.toList, n < s.intake.slots.length →
        (slotAt s n).state = .merging ∨ (slotAt s n).state = .full → (slotAt u n).state = .free
    (∀ left, s.writer.dryTimer = some left →
      ∃ u, exec .dryTimerExpiry s = .next (settle u) ∧ stopped u) ∧
    (s.port.runState = .running ∨ s.port.runState = .draining → s.walker.taken = none →
      ∃ u, exec .abort s = .next (settle u) ∧ stopped u ∧ ∃ b, u.walker.active = some b ∧
        b.primary = (if a.primary = .none then .aborted else a.primary))) ∧
  (∀ (s : State) (p : OutputParams), s.writer.params = some p → s.writer.task = .none → s.writer.phase ≠ .finishing →
    let planes := (if p.density then [Plane.density] else []) ++ (if p.positive then [.positive] else []) ++
      (if p.mask then [.mask] else [])
    (∀ (row : RowEntry) (rows : List RowEntry) (rest : List QueueItem), s.writer.phase = .discarding →
      s.writer.queue = .row row :: rows.map QueueItem.row ++ rest → (∀ item ∈ rest.head?, isRowEntry item = false) →
      writerAdvance s = some
        { s with writer := { s.writer with queue := rest, hold := s.writer.hold && 16 < queueLevel rest } }) ∧
    (∀ (mark : TileMark) (rest : List QueueItem),
      s.writer.queue = .failureMark mark :: rest ∨
        s.writer.phase = .discarding ∧ s.writer.queue = .endMark mark :: rest →
      let inWriting := s.writer.tile = some mark.tile
      let address := p.recordArea + 128 * mark.tile
      let recorded := fun plane : Plane =>
        let before := planeRecord s.writer plane
        if ¬inWriting then .clear else if plane ∉ planes then before
          else { before with current := none, last := (before.current.map Extent.used).getD before.last }
      writerAdvance s = some
        { s with
          port := { s.port with writerRequests := s.port.writerRequests ++
            (if inWriting then planes.flatMap (fun plane => (planeRecord s.writer plane).current.toList.map fun e =>
              ⟨.write (leBytes 4 e.used ++ leBytes 1 1), p.listArea + 32 * e.listIndex + 24, .extentClose, false⟩)
            else []) ++
            [⟨.write (statsBytes .zero), address + 64, .failedRecord, false⟩,
              ⟨.write (recordFields p mark.tile mark.retakes (recorded .density) (recorded .positive) (recorded .mask)),
                address + 4, .failedRecord, false⟩,
              ⟨.write (leBytes 4 3), address, .failedRecord, false⟩] }
          writer := { s.writer with
            queue := rest, finished := s.writer.finished ++ [mark.tile], tile := none
            density := .clear, positive := .clear, mask := .clear } }) ∧
    (s.writer.queue = [] →
      let done := s.writer.captureEnded = true ∧ s.merge.queue = [] ∧ s.writer.density.current = none ∧
        s.writer.positive.current = none ∧ s.writer.mask.current = none
      let failed := s.writer.interrupted.toList.filter (· ∉ s.writer.finished)
      let skipped := (List.range (p.nx * p.ny)).filter fun t => t ∉ s.writer.finished && t ∉ failed
      (¬done → writerAdvance s = none) ∧
      (done → writerAdvance s = some
        { s with
          port := { s.port with
            writerRequests := s.port.writerRequests ++
              (failed.flatMap fun t =>
                let address := p.recordArea + 128 * t
                [⟨.write (statsBytes .zero), address + 64, .finishRecord, false⟩,
                  ⟨.write (recordFields p t 0 .clear .clear .clear), address + 4, .finishRecord, false⟩,
                  ⟨.write (leBytes 4 3), address, .finishRecord, false⟩]) ++
              skipped.map fun t => ⟨.write (leBytes 4 4), p.recordArea + 128 * t, .finishRecord, false⟩ }
          writer := { s.writer with
            phase := .finishing, finished := s.writer.finished ++ failed
            dryTimer := none, recheckTimer := none } }))) ∧
  ∀ (s : State) (p : OutputParams), s.writer.params = some p → s.writer.phase = .finishing →
    (s.port.writerRequests ≠ [] → writerAdvance s = none) ∧
    (s.port.writerRequests = [] → ∃ u, writerAdvance s = some u ∧ u.writer.params = none ∧ u.writer.phase = .idle ∧
      u.writer.task = .none ∧ u.writer.tile = none ∧ u.port = s.port ∧
      ∀ a, s.walker.active = some a → u.walker.active = some { a with workEnded := true })

/-! ## The Reference Cache -/

/-- RESOLVING tests every index first: one beyond the count fails the order NO_REFERENCE, one not yet read has its
64-byte entry read, one read must pass its test (state, image, kind, dose, and channel or step). Then each index is
resolved: a hit raises the hold count; a stale READY entry with no hold, or for an index found nowhere the EMPTY entry
nearest the tail of the LRU list, failing that the READY one with no hold, begins a load for the order; in any other
case the resolution waits. The entry goes to the list's head unless it is pinned, which the pin request sets below 32
pinned entries and else has refused and counted. -/
def Obligations.ResolutionsHoldTheirEntries : Prop :=
  (∀ (s : State) (o : TakenOrder) (body : OrderBody) (role : DirectoryRole) (rest : List DirectoryRole) (w : Settings),
    s.walker.taken = some o → o.ending = false → o.reading = none → o.setup = .resolving → o.body = some body →
    o.roles = role :: rest → s.port.settings = some w →
    let fails := ∃ u e, setupAdvance s = some u ∧ u.walker.taken = some e ∧ e.primary = .noReference ∧
      e.ending = true ∧ e.holds = o.holds ∧ u.cache = s.cache
    (w.directoryCount ≤ role.index → fails) ∧
    (role.index < w.directoryCount →
      (directoryFind o.directory role.index = none → setupAdvance s = some
        { s with
          nextOp := s.nextOp + 1
          walker := { s.walker with taken := some { o with reading := some s.nextOp } }
          port := { s.port with cacheRequests := s.port.cacheRequests ++
            [⟨.read 64, w.directory + 64 * role.index, .directoryEntry s.nextOp, false⟩] } }) ∧
      ∀ e, directoryFind o.directory role.index = some e →
        (entryPasses s role.index e role.test = false → fails) ∧
        (entryPasses s role.index e role.test = true → setupAdvance s = some
          { s with walker := { s.walker with taken := some { o with roles := rest } } }))) ∧
  (∀ (s : State) (index : Nat) (e : DirectoryEntry) (value : Nat) (other : Option Nat),
    let good := e.image % 4096 = 0 ∧ inWindow s e.image 33554432 = true
    (entryPasses s index e (.flat value) = true ↔
      e.state = 1 ∧ good ∧ e.kind = 1 ∧ e.dose ≠ 0 ∧ e.channel = value) ∧
    (entryPasses s index e (.dark value) = true ↔ e.state = 1 ∧ good ∧ e.kind = 2 ∧ e.step = value) ∧
    (entryPasses s index e (.target other) = true ↔ good ∧ other ≠ some index)) ∧
  ∀ (s : State) (o : TakenOrder) (index : Nat) (rest : List Nat) (e : DirectoryEntry) (w : Settings),
    s.walker.taken = some o → o.ending = false → o.setup = .resolving → o.roles = [] → o.toResolve = index :: rest →
    directoryFind o.directory index = some e → s.port.settings = some w →
    let holding := fun (n : Nat) (before after : CacheEntry) (op : Nat) =>
      let refused := e.pin = true ∧ before.pinned = false ∧ 32 ≤ pinnedCount s
      let pinned : Bool := e.pin && !decide refused
      let others := s.cache.lru.filter (· ≠ n)
      let count := s.cache.pinRefused + 1
      resolveAdvance s = some
        { s with
          nextOp := op
          walker := { s.walker with taken := some { o with toResolve := rest, holds := o.holds ++ [⟨index, n⟩] } }
          cache := { s.cache with
            entries := s.cache.entries.set n { after with pinned := pinned }
            lru := if e.pin = true ∧ before.pinned = true then s.cache.lru else if pinned then others else n :: others
            pinRefused := if refused then count else s.cache.pinRefused }
          port := { s.port with cacheRequests := s.port.cacheRequests ++
            if refused then [⟨.write (leBytes 4 count.toNat), w.anchor + 272, .cacheWrite, false⟩] else [] } }
    let loading := fun (n : Nat) (x : CacheEntry) =>
      holding n x { x with
        state := .loading, index := index, generation := e.generation, holds := 1
        load := some ⟨s.nextOp, e.image, 0, 0⟩ } (s.nextOp + 1)
    let unheld := fun x : CacheEntry => x.state = .ready ∧ x.holds = 0
    (∀ n x, carrying s index = some n → s.cache.entries[n]? = some x →
      (x.generation = e.generation → holding n x { x with holds := x.holds + 1 } s.nextOp) ∧
      (x.generation ≠ e.generation → unheld x → loading n x) ∧
      (x.generation ≠ e.generation → ¬unheld x → resolveAdvance s = none)) ∧
    (carrying s index = none ↔ ∀ x ∈ s.cache.entries, x.state ≠ .empty → x.index ≠ index) ∧
    (carrying s index = none →
      (∀ near n far x, s.cache.lru.reverse = near ++ n :: far → s.cache.entries[n]? = some x →
        (x.state = .empty → (∀ m ∈ near, (entryAt s m).state ≠ .empty) → loading n x) ∧
        (unheld x → (∀ m ∈ s.cache.lru, (entryAt s m).state ≠ .empty) → (∀ m ∈ near, ¬unheld (entryAt s m)) →
          loading n x)) ∧
      ((∀ m ∈ s.cache.lru, (entryAt s m).state ≠ .empty ∧ ¬unheld (entryAt s m)) → resolveAdvance s = none))

/-- A read's bytes for a load in progress land unchanged in the entry's place; every other byte of frame memory reads as
before; the load goes on until its last byte, which makes the entry READY. A read of a load that fails, by error or by
its limit, empties the entry, with its holds and its pin gone and its place at the tail of the LRU list. With no holder
no order fails; a TAKEN holder ends at once with MEMORY_ERROR, an ACTIVE one fails with it, and neither holds the entry
longer. -/
def Obligations.LoadsLandOrFailTheirHolders : Prop :=
  (∀ (s : State) (n entry offset : Nat) (r : ReadInProgress) (c : CacheEntry) (l : Load) (data : List Byte),
    findRead n s.port = some r → r.purpose = .loadPiece entry l.op offset → r.sent = true →
    data.length = r.length → s.cache.entries[entry]? = some c → c.state = .loading →
    c.load = some l →
    ∃ u : State, exec (.readCompletion n data) s = .next (settle u) ∧
      let base := 536870912 + entry * 33554432 + offset
      (∀ i < data.length, memoryRead u.frame (base + i) = data[i]?) ∧
      (∀ a, a < base ∨ base + data.length ≤ a → memoryRead u.frame a = memoryRead s.frame a) ∧
      u.cache.entries[entry]? = some (if l.landed + data.length = 33554432
        then { c with state := .ready, load := none }
        else { c with load := some { l with landed := l.landed + data.length } })) ∧
  ∀ (s : State) (n entry offset : Nat) (r : ReadInProgress) (c : CacheEntry) (l : Load), findRead n s.port = some r →
    r.purpose = .loadPiece entry l.op offset → r.sent = true → s.cache.entries[entry]? = some c → c.load = some l →
    let held := fun holds : List CacheHold => ∃ h ∈ holds, h.entry = entry
    let emptied := { s.cache with
      entries := s.cache.entries.set entry { c with state := .empty, holds := 0, pinned := false, load := none }
      lru := s.cache.lru.filter (· ≠ entry) ++ [entry] }
    let both := fun effect : Instr → Prop => effect (.readErrorCompletion n) ∧ effect (.readCompletionTimeout n)
    ((∀ o, s.walker.taken = some o → ¬held o.holds) → (∀ a, s.walker.active = some a → ¬held a.holds) →
      both fun command => Effects command s
        { s with cache := emptied, port := { s.port with reads := s.port.reads.filter fun x => x.number ≠ n } }) ∧
    (∀ o, s.walker.taken = some o → held o.holds → o.ending = false →
      (∀ a, s.walker.active = some a → ¬held a.holds) →
      both fun command => ∃ u e, exec command s = .next (settle u) ∧ u.cache = emptied ∧
        u.walker.taken = some e ∧ e.primary = .memoryError ∧ e.ending = true ∧ ¬held e.holds ∧
        u.walker.active = s.walker.active) ∧
    ∀ a, s.walker.active = some a → held a.holds → a.ending = false → s.plate.phase ≠ .shutdown →
      (∀ o, s.walker.taken = some o → ¬held o.holds) →
      both fun command => ∃ u b, exec command s = .next (settle u) ∧ u.walker.active = some b ∧
        b.primary = (if a.primary = .none then .memoryError else a.primary) ∧ ¬held b.holds ∧
        u.walker.taken = s.walker.taken ∧ u.plate.phase = .shutdown ∧ (a.kind ≠ .reference → u.cache = emptied)

/-- A frame is taken into the two accumulators: set for the first frame, added, modulo 2^32, for a later one, pixel by
pixel; its slot is FREE, and every byte outside the accumulators reads as before. -/
def Obligations.FramesAccumulate : Prop :=
  ∀ (s : State) (w : ReferenceWork) (low high slot : Nat), Memory.wf s.frame → s.cache.work = some w →
    w.accumulators = some (low, high) → w.frameInHand = some slot →
    low ≠ high → slot ≠ low → slot ≠ high → slot < s.intake.slots.length → (slotAt s slot).state = .full →
    ∃ u : State, exec .frameAccumulated s = .next (settle u) ∧ (slotAt u slot).state = .free ∧
      u.cache.work = some { w with accumulated := w.accumulated + 1, frameInHand := none } ∧
      (∀ row < 4096, rowSums u (low, high) row =
        if w.accumulated = 0 then rowValues s (slotBase slot) row
        else List.zipWith (fun sum sample => (sum + sample) % 2 ^ 32) (rowSums s (low, high) row)
          (rowValues s (slotBase slot) row)) ∧
      ∀ a, (a < slotBase low ∨ slotBase low + 33554432 ≤ a) → (a < slotBase high ∨ slotBase high + 33554432 ≤ a) →
        memoryRead u.frame a = memoryRead s.frame a

/-- A built row, built whenever the stage is building (log 30), is written into the install entry at row × 8192, its
writes to the image are appended in rising order, and every other byte of frame memory reads as before; the row is made
of the accumulated sums of its pixels and, for a FLAT, of the held dark's row: a pixel is the average of its sums,
(sum + N div 2) div N, less the dark for a FLAT, or 0 where the dark exceeds it; the mean is rounded half up. -/
def Obligations.BuiltRowIsInstalledAndWritten : Prop :=
  (∀ (s : State) (w : ReferenceWork) (acc : Nat × Nat) (n : Nat), s.cache.work = some w → w.stage = .building →
    w.accumulators = some acc → w.install = some n → w.row < 4096 →
    ∃ u : State, exec .referenceRowBuilt s = .next (settle u) ∧
      let values := builtRow s w acc
      let base := 536870912 + n * 33554432 + w.row * 8192
      u.cache.work = some { w with row := w.row + 1, sum := w.sum + values.sum } ∧
      u.cache.writeBack = s.cache.writeBack ++ writeSpan (w.image + w.row * 8192) (bytes16 values) .cacheWrite
        (.rowWritten w.op w.row) ∧
      (∀ i < (bytes16 values).length, memoryRead u.frame (base + i) = (bytes16 values)[i]?) ∧
      ∀ a, a < base ∨ base + (bytes16 values).length ≤ a → memoryRead u.frame a = memoryRead s.frame a) ∧
  ((∀ (s : State) (w : ReferenceWork) (acc : Nat × Nat),
    builtRow s w acc = resultRow w.flat w.frames (rowSums s acc w.row)
      (rowValues s (entryBase (w.darkEntry.getD 0)) w.row)) ∧
  (∀ (frames sum : Nat), 1 ≤ frames → averageSum frames sum = (sum + frames / 2) / frames) ∧
  (∀ (frames : Nat) (sums darks : List Nat),
    resultRow false frames sums darks = sums.map (averageSum frames) ∧
      resultRow true frames sums darks =
        List.zipWith (fun sum dark => averageSum frames sum - min dark 16383) sums darks) ∧
  ∀ sum, resultMean sum = (2 * sum + 16777216) / 33554432)

/-! ## Orders -/

/-- The tile plan captures every tile of the grid exactly once, row after row, in even rows from the left and in odd
rows from the right. -/
def Obligations.TilePlanIsSerpentine : Prop :=
  ∀ nx ny : Nat, 1 ≤ nx →
    (∀ q < nx * ny, sequenceTile nx q < nx * ny ∧ sequenceTile nx q / nx = q / nx ∧
      sequenceTile nx q % nx = if q / nx % 2 = 0 then q % nx else nx - 1 - q % nx) ∧
    ∀ tile < nx * ny, ∃ q < nx * ny, sequenceTile nx q = tile ∧ ∀ p < nx * ny, sequenceTile nx p = tile → p = q

/-- The clamped PLATE body is in range, clamping it again changes nothing, and each flag is set exactly when its clamp
changes a value. A REFERENCE body's frames to average are brought into 1..16, a FLAT's level into 1..1000; a SERVICE
count above 8 becomes 8; their flags likewise. -/
def Obligations.ClampsBringTheBodyIntoRange : Prop :=
  let outside := fun level : Nat => level < 1 ∨ 1000 < level
  (∀ b : PlateBody,
    let c := clampPlate b
    let f := plateFlags b
    clampBody (.plate b) = .plate c ∧ clampFlagsOf (.plate b) = f ∧
      c.ceiling = max 2 (min 16383 b.ceiling) ∧ c.floor = min (max 1 b.floor) (c.ceiling - 1) ∧
      c.flatFloor = max 1 b.flatFloor ∧ (∀ m ∈ c.members, ¬outside m.level) ∧
      (∀ d, c.darkfield = some d → ¬outside d.level ∧ 1 ≤ d.threshold) ∧
      (c.mask = true ↔ b.mask = true ∧ b.darkfield.isSome = true) ∧
      clampPlate c = c ∧ (f = .none ↔ c = b) ∧
      (f.level = true ↔ (∃ m ∈ b.members, outside m.level) ∨ ∃ d, b.darkfield = some d ∧ outside d.level) ∧
      (f.floor = true ↔ b.floor = 0) ∧
      (f.ceiling = true ↔ b.ceiling < 2 ∨ 16383 < b.ceiling ∨ c.ceiling ≤ max 1 b.floor) ∧
      (f.flatFloor = true ↔ b.flatFloor = 0) ∧
      (f.threshold = true ↔ ∃ d, b.darkfield = some d ∧ d.threshold = 0) ∧
      (f.maskDropped = true ↔ b.mask = true ∧ b.darkfield = none) ∧ f.average = false ∧ f.service = false) ∧
  (∀ b : ReferenceBody,
    let f := clampFlagsOf (.reference b)
    clampBody (.reference b) = .reference
        { b with
          frames := max 1 (min 16 b.frames)
          level := if b.kind = 1 then max 1 (min 1000 b.level) else b.level } ∧
      (f.average = true ↔ b.frames = 0 ∨ 16 < b.frames) ∧ (f.level = true ↔ b.kind = 1 ∧ outside b.level) ∧
      f = { ClampFlags.none with average := f.average, level := f.level }) ∧
  ∀ b : ServiceBody,
    clampBody (.service b) = .service { b with count := if 8 < b.count then 8 else b.count } ∧
      clampFlagsOf (.service b) = { ClampFlags.none with service := 8 < b.count }

/-- A PLATE order's setup ends RESOLVED with the lower-numbered FREE tone bank: the built-in table LOADED at once for
address 0, else LOADING with the reads of the table's 8192 bytes waiting. A read's data join the load by their offset,
and the last make the bank LOADED with the table's 16-bit values. A read that fails ends the load: a TAKEN order ends at
once with MEMORY_ERROR, the ACTIVE one fails with it; a read of a load that has ended changes no bank and fails nothing.
That the load's waiting reads are gone and those in progress are not used (log 27), and that the failure empties the
member records (log 61), are the model's choices. -/
def Obligations.ToneBanksLoadForTheirOrders : Prop :=
  (∀ (s : State) (o : TakenOrder) (b : PlateBody), s.walker.taken = some o → o.ending = false → o.reading = none →
    o.setup = .resolving → o.body = some (.plate b) → o.roles = [] → o.toResolve = [] →
    s.walker.bank0.state = .free ∨ s.walker.bank1.state = .free →
    let low := s.walker.bank0.state = .free
    let takes := fun (bank : ToneBank → ToneBank) (reads : List Request) =>
      setupAdvance s = some
        { s with walker := { s.walker with
            taken := some { o with setup := .resolved, bank := some (if low then 0 else 1) }
            bank0 := if low then bank s.walker.bank0 else s.walker.bank0
            bank1 := if low then s.walker.bank1 else bank s.walker.bank1
            toneReads := s.walker.toneReads ++ reads } }
    (b.toneTable = 0 → takes (fun _ => ⟨.loaded, some o.number, .builtIn, [], 0⟩) []) ∧
    (b.toneTable ≠ 0 →
      let reads := readSpan b.toneTable 8192 fun offset => .tonePiece o.number offset
      takes (fun x => ⟨.loading, some o.number, x.table, [], reads.length⟩) reads)) ∧
  (∀ bytes : List Byte, (values16 bytes).length = bytes.length / 2 ∧ ∀ i < bytes.length / 2,
    (values16 bytes)[i]? = some (leNat ((bytes.drop (2 * i)).take 2))) ∧
  ∀ (s : State) (n owner offset : Nat) (r : ReadInProgress), findRead n s.port = some r →
    r.purpose = .tonePiece owner offset → r.sent = true →
    let loads := fun b : ToneBank => b.state = .loading ∧ b.owner = some owner ∧ 0 < b.awaited
    let rest := { s.port with reads := s.port.reads.filter fun x => x.number ≠ n }
    let fails := fun effect : Instr → Prop => effect (.readErrorCompletion n) ∧ effect (.readCompletionTimeout n)
    (∀ data : List Byte, data.length = r.length →
      let landed := fun b : ToneBank =>
        let pieces := insertPiece ⟨offset, data⟩ b.pieces
        if b.awaited = 1 then
          { b with state := .loaded, table := .host (values16 (pieceBytes pieces)), pieces := [], awaited := 0 }
        else { b with pieces := pieces, awaited := b.awaited - 1 }
      (loads s.walker.bank0 → Effects (.readCompletion n data) s
        { s with port := rest, walker := { s.walker with bank0 := landed s.walker.bank0 } }) ∧
      (¬loads s.walker.bank0 → loads s.walker.bank1 → Effects (.readCompletion n data) s
        { s with port := rest, walker := { s.walker with bank1 := landed s.walker.bank1 } }) ∧
      (¬loads s.walker.bank0 → ¬loads s.walker.bank1 →
        Effects (.readCompletion n data) s { s with port := rest })) ∧
    (¬loads s.walker.bank0 → ¬loads s.walker.bank1 →
      fails fun command => Effects command s { s with port := rest }) ∧
    (loads s.walker.bank0 ∨ loads s.walker.bank1 →
      let ended := fun u : State => ¬loads u.walker.bank0 ∧ ¬loads u.walker.bank1 ∧
        ∀ x ∈ u.walker.toneReads, x ∈ s.walker.toneReads ∧ ∀ k, x.purpose ≠ .tonePiece owner k
      (∀ o, s.walker.taken = some o → o.number = owner → o.ending = false →
        fails fun command => ∃ u e, exec command s = .next (settle u) ∧ ended u ∧ u.walker.taken = some e ∧
          e.primary = .memoryError ∧ e.ending = true ∧ e.holds = o.holds ∧ u.walker.active = s.walker.active) ∧
      ((∀ o, s.walker.taken = some o → o.number ≠ owner) →
        ∀ a, s.walker.active = some a → a.number = owner → CanFail s →
          fails fun command => FailsActive command s .memoryError ∧
            ∃ u, exec command s = .next (settle u) ∧ ended u ∧ u.walker.taken = s.walker.taken))

/-- A RESOLVED order with none ACTIVE, in RUNNING or DRAINING, has its cancel sampled; 0, or a failed sample, presents
ACTIVE; ACTIVE accepted makes it the ACTIVE order with every count 0 and the recheck timer stopped, and hands it on: the
Tile Writer's parameters with its PENDING records (fields, then the state, tile after tile) and the descriptor's read,
the Merge Engine's, the Reference Cache's work, the Plate Controller's body, limits and first phase. That this waits for
the acceptance is the model's choice (log 31). -/
def Obligations.ActivationHandsTheOrderOn : Prop :=
  (∀ (s : State) (o : TakenOrder), s.walker.taken = some o →
    let due := o.setup = .resolved ∧ o.ending = false ∧ s.walker.active = none ∧
      (s.port.runState = .running ∨ s.port.runState = .draining)
    (due → o.activationSample = none → activationAdvance s = some
      { s with
        nextOp := s.nextOp + 1
        walker := { s.walker with taken := some { o with activationSample := some s.nextOp } }
        port := { s.port with walkerRequests := s.port.walkerRequests ++
          [⟨.read 4, o.address + 8, .cancelActivation s.nextOp, false⟩] } }) ∧
    (¬due → activationAdvance s = none)) ∧
  (∀ (s : State) (n op : Nat) (r : ReadInProgress) (o : TakenOrder), findRead n s.port = some r →
    r.purpose = .cancelActivation op → r.sent = true → s.walker.taken = some o → o.activationSample = some op →
    let asked :=
      { s with port := { s.port with
          reads := s.port.reads.filter fun x => x.number ≠ n
          walkerRequests := s.port.walkerRequests ++ [⟨.write (leBytes 4 3), o.address, .activeState op, false⟩] } }
    (∀ data : List Byte, data.length = r.length → leNat data = 0 → Effects (.readCompletion n data) s asked) ∧
      Effects (.readErrorCompletion n) s asked ∧ Effects (.readCompletionTimeout n) s asked) ∧
  ∀ (s : State) (q : Requester) (r : Request) (data : List Byte) (op : Nat) (o : TakenOrder) (body : OrderBody)
    (w : Settings), WriteDue s q r data → r.purpose = .activeState op → s.walker.taken = some o →
    o.activationSample = some op → o.ending = false → o.body = some body → s.port.settings = some w →
    ∃ u : State, exec .arbiterGrant s = .next (settle u) ∧ u.walker.taken = none ∧ u.walker.recheckTimer = none ∧
      u.walker.active = some
        { number := o.number, address := o.address, kind := o.kind, tag := o.tag, body := body, clamps := o.clamps
          directory := o.directory, holds := o.holds, bank := o.bank, published := 0, retakes := 0, lateEvents := 0
          thickness := 0, captureEnded := false, withdrawn := false, workEnded := false, slotGroupOut := false
          ending := false, primary := .none, secondary := .none } ∧
      u.plate.order = some ⟨o.number, o.tag, body, w.motion, w.frame, w.recheck, w.exposure⟩ ∧
      u.plate.retakes = 0 ∧ u.plate.lateEvents = 0 ∧ u.plate.thickness = none ∧ u.plate.movingMark = false ∧
      (∀ b, body = .plate b →
        u.plate.phase = (if b.samePlate then .gauging else .interlock) ∧ u.merge.params = some (mergeParams o b) ∧
          u.writer.params = some (outputParams o b) ∧ u.writer.nextList = 0 ∧ u.writer.finished = [] ∧
          u.port.writerRequests = (sentState s q r data).port.writerRequests ++
            ((List.range (b.nx * b.ny)).flatMap fun tile =>
              let address := b.recordArea + 128 * tile
              [⟨.write (zeroBytes 64), address + 64, .pendingRecord, false⟩,
                ⟨.write (recordFields (outputParams o b) tile 0 .clear .clear .clear ++ zeroBytes 4), address + 4,
                  .pendingRecord, false⟩,
                ⟨.write (leBytes 4 1), address, .pendingRecord, false⟩]) ++
            (if b.descriptor = 0 then [] else [⟨.read 64, b.descriptor, .descriptor s.nextOp, false⟩])) ∧
      (∀ b, body = .reference b → u.plate.phase = .reserving ∧ u.intake.reservation = some 3 ∧
        u.cache.work = some (referenceWork o b)) ∧
      ∀ b, body = .service b → u.plate.phase = .sending

/-- The ACTIVE order's final write begins once its capture and its work have ended, with no SHUTDOWN unreported and no
slot group out: the group with its codes, clamps and counts, then DONE, WITHDRAWN or FAILED. The state accepted drops
the order, releases its holds, its bank and its slots, returns the Plate Controller to IDLE, and counts it: the anchor's
count is presented, and its acceptance raises ORDER_END. -/
def Obligations.FinalStatesCloseTheOrder : Prop :=
  (∀ (s : State) (a : ActiveOrder), s.walker.active = some a →
    let ready := a.ending = false ∧ a.captureEnded = true ∧ a.workEnded = true ∧ a.slotGroupOut = false ∧
      (s.plate.phase = .shutdown → s.plate.shutdownReported = true)
    let state := if a.primary ≠ .none then 5 else if a.withdrawn = true then 6 else 4
    let published := if a.kind = .plate then a.published else 0
    let thickness := if a.kind = .service then 0 else a.thickness
    (ready → finalAdvance s = some
      { s with
        walker := { s.walker with active := some { a with ending := true } }
        port := { s.port with walkerRequests := s.port.walkerRequests ++
          [⟨.write (finalGroup a.primary a.secondary a.clamps published a.retakes s.plate.lateEvents thickness),
              a.address + 24, .orderWrite, false⟩,
            ⟨.write (leBytes 4 state), a.address, .finalState false, false⟩] } }) ∧
    (¬ready → finalAdvance s = none)) ∧
  (∀ (s : State) (q : Requester) (r : Request) (data : List Byte) (w : Settings) (fromTaken : Bool) (number : Nat)
    (holds : List CacheHold), WriteDue s q r data → r.purpose = .finalState fromTaken → s.port.settings = some w →
    (if fromTaken then ∃ o, s.walker.taken = some o ∧ o.number = number ∧ o.holds = holds
      else ∃ a, s.walker.active = some a ∧ a.number = number ∧ a.holds = holds) →
    let t := sentState s q r data
    let finished := s.walker.ordersFinished + 1
    ∃ u : State, exec .arbiterGrant s = .next (settle u) ∧ u.walker.ordersFinished = finished ∧
      u.port.walkerRequests = t.port.walkerRequests ++
        [⟨.write (leBytes 4 finished.toNat), w.anchor + 256, .ordersFinished, false⟩] ∧
      u.walker.taken = (if fromTaken then none else s.walker.taken) ∧
      u.walker.active = (if fromTaken then s.walker.active else none) ∧
      (fromTaken = false → u.merge.params = none ∧ u.plate.phase = .idle ∧ u.plate.order = none) ∧
      (let freed := fun before after : ToneBank =>
        if before.owner = some number then after.state = .free ∧ after.owner = none else after = before
      freed s.walker.bank0 u.walker.bank0 ∧ freed s.walker.bank1 u.walker.bank1) ∧
      (∀ n < s.intake.slots.length, (slotAt s n).owner = some number → (slotAt u n).state = .free) ∧
      ∀ n, u.cache.entries[n]? = t.cache.entries[n]?.map fun e : CacheEntry =>
        if e.state = .empty then e else { e with holds := e.holds - (holds.map CacheHold.entry).count n }) ∧
  ∀ (s : State) (q : Requester) (r : Request) (data : List Byte), WriteDue s q r data → r.purpose = .ordersFinished →
    Effects .arbiterGrant s (setCause .orderEnd (sentState s q r data))

/-- The recheck timer samples a TAKEN order's cancel; 0, or a failed sample, starts the timer anew; another value, there
or in the activation sample, ends the order at once: its setup abandoned, both codes NONE, WITHDRAWN. A POSTED candidate
with cancel set is withdrawn before the take, the walk moving on from it, and counted. A sample of the ACTIVE order that
answers "withdraw" sets its mark with the counts and no code, puts the Plate Controller into SHUTDOWN, and leaves the
Tile Writer and the Merge Engine to go on; "go on" at a tile boundary reserves the next tile and in a wait starts the
interval anew, which the model has begin at the answer (its choice, log 23). That the member records are empty in that
SHUTDOWN is the model's choice (log 61). -/
def Obligations.CancelSamplesWithdraw : Prop :=
  (∀ (s : State) (left : Nat) (o : TakenOrder), s.walker.recheckTimer = some left → s.walker.taken = some o →
    o.ending = false →
    Effects .walkRecheckExpiry s
      { s with
        nextOp := s.nextOp + 1
        walker := { s.walker with recheckTimer := none, taken := some { o with recheckSample := some s.nextOp } }
        port := { s.port with walkerRequests := s.port.walkerRequests ++
          [⟨.read 4, o.address + 8, .cancelTaken s.nextOp, false⟩] } }) ∧
  (∀ (s : State) (n op : Nat) (r : ReadInProgress) (o : TakenOrder) (w : Settings), findRead n s.port = some r →
    r.sent = true → s.walker.taken = some o → s.port.settings = some w →
    (r.purpose = .cancelTaken op → o.recheckSample = some op →
      let goOn := { s with
        port := { s.port with reads := s.port.reads.filter fun x => x.number ≠ n }
        walker := { s.walker with
          recheckTimer := some w.recheck, taken := some { o with recheckSample := none } } }
      (∀ data : List Byte, data.length = r.length → leNat data = 0 → Effects (.readCompletion n data) s goOn) ∧
        Effects (.readErrorCompletion n) s goOn ∧ Effects (.readCompletionTimeout n) s goOn) ∧
    (r.purpose = .cancelTaken op ∧ o.recheckSample = some op ∨
        r.purpose = .cancelActivation op ∧ o.activationSample = some op → o.ending = false →
      ∀ data : List Byte, data.length = r.length → leNat data ≠ 0 →
        ∃ u e kept, exec (.readCompletion n data) s = .next (settle u) ∧ u.walker.taken = some e ∧ e.ending = true ∧
          e.primary = .none ∧ e.toResolve = [] ∧ e.holds = o.holds ∧ u.cache = s.cache ∧ u.plate = s.plate ∧
          u.port.walkerRequests = kept ++
            [⟨.write (finalGroup .none .none o.clamps 0 0 0 0), o.address + 24, .orderWrite, false⟩,
              ⟨.write (leBytes 4 6), o.address, .finalState true, false⟩] ∧
          ∀ x ∈ kept, x ∈ s.port.walkerRequests)) ∧
  (∀ (s : State) (n op address : Nat) (r : ReadInProgress) (data : List Byte), findRead n s.port = some r →
    r.purpose = .chainHeader op address → r.sent = true → data.length = r.length → s.walker.examination = some op →
    leNat (data.take 4) = 1 → leNat ((data.drop 8).take 4) ≠ 0 →
    Effects (.readCompletion n data) s
      { s with
        walker := { s.walker with position := some address, examination := none, readFailures := 0 }
        port := { s.port with
          reads := s.port.reads.filter fun x => x.number ≠ n
          walkerRequests := s.port.walkerRequests ++
            [⟨.write (finalGroup .none .none .none 0 0 0 0), address + 24, .orderWrite, false⟩,
              ⟨.write (leBytes 4 6), address, .withdrawnState, false⟩] } }) ∧
  (∀ (s : State) (q : Requester) (r : Request) (data : List Byte) (w : Settings), WriteDue s q r data →
    r.purpose = .withdrawnState → s.port.settings = some w →
    let t := sentState s q r data
    let finished := s.walker.ordersFinished + 1
    Effects .arbiterGrant s
      { t with
        walker := { t.walker with ordersFinished := finished }
        port := { t.port with walkerRequests := t.port.walkerRequests ++
          [⟨.write (leBytes 4 finished.toNat), w.anchor + 256, .ordersFinished, false⟩] } }) ∧
  ∀ (s : State) (n op : Nat) (use : SampleUse) (r : ReadInProgress) (a : ActiveOrder) (o : PlateOrder)
    (data : List Byte), findRead n s.port = some r → r.purpose = .cancelPlate op → r.sent = true →
    data.length = r.length → s.plate.sample = some ⟨op, use⟩ → s.walker.active = some a → a.ending = false →
    s.plate.order = some o → s.plate.phase ≠ .shutdown →
    (leNat data ≠ 0 →
      ∃ u b, exec (.readCompletion n data) s = .next (settle u) ∧ u.walker.active = some b ∧ b.withdrawn = true ∧
        b.primary = a.primary ∧ b.secondary = a.secondary ∧ b.retakes = s.plate.retakes ∧
        b.lateEvents = s.plate.lateEvents ∧ b.thickness = s.plate.thickness.getD 0 ∧ u.plate.phase = .shutdown ∧
        u.plate.motionTimer = none ∧ u.plate.recheckTimer = none ∧ u.plate.members = [] ∧
        u.intake.reservation = none ∧ u.writer = s.writer ∧ u.merge = s.merge) ∧
    (leNat data = 0 →
      let resumed := fun plate : Plate =>
        Effects (.readCompletion n data) s
          { s with plate := plate, port := { s.port with reads := s.port.reads.filter fun x => x.number ≠ n } }
      (use = .wait → resumed { s.plate with sample := none, recheckTimer := some o.recheck }) ∧
      ∀ b, use = .boundary → o.body = .plate b → s.plate.capture ≠ b.nx * b.ny →
        resumed { s.plate with sample := none, recheckTimer := some o.recheck, phase := .reserving })
end

