-- ==== Sys2Proof/Laws/State.lean ====
section
/-! SUPPORT. One lemma for each field of the state under each named update, true by unfolding. -/

namespace Sys2Proof.Machine

variable (s : State)

/-! ## modPort -/

@[simp] theorem modPort_port (f : Port → Port) : (modPort f s).port = f s.port := rfl
@[simp] theorem modPort_walker (f : Port → Port) : (modPort f s).walker = s.walker := rfl
@[simp] theorem modPort_plate (f : Port → Port) : (modPort f s).plate = s.plate := rfl
@[simp] theorem modPort_bus (f : Port → Port) : (modPort f s).bus = s.bus := rfl
@[simp] theorem modPort_intake (f : Port → Port) : (modPort f s).intake = s.intake := rfl
@[simp] theorem modPort_cache (f : Port → Port) : (modPort f s).cache = s.cache := rfl
@[simp] theorem modPort_merge (f : Port → Port) : (modPort f s).merge = s.merge := rfl
@[simp] theorem modPort_writer (f : Port → Port) : (modPort f s).writer = s.writer := rfl
@[simp] theorem modPort_frame (f : Port → Port) : (modPort f s).frame = s.frame := rfl
@[simp] theorem modPort_powerOns (f : Port → Port) : (modPort f s).powerOns = s.powerOns := rfl
@[simp] theorem modPort_nextOp (f : Port → Port) : (modPort f s).nextOp = s.nextOp := rfl
@[simp] theorem modPort_pending (f : Port → Port) : (modPort f s).pending = s.pending := rfl

/-! ## modWalker -/

@[simp] theorem modWalker_port (f : Walker → Walker) : (modWalker f s).port = s.port := rfl
@[simp] theorem modWalker_walker (f : Walker → Walker) : (modWalker f s).walker = f s.walker := rfl
@[simp] theorem modWalker_plate (f : Walker → Walker) : (modWalker f s).plate = s.plate := rfl
@[simp] theorem modWalker_bus (f : Walker → Walker) : (modWalker f s).bus = s.bus := rfl
@[simp] theorem modWalker_intake (f : Walker → Walker) : (modWalker f s).intake = s.intake := rfl
@[simp] theorem modWalker_cache (f : Walker → Walker) : (modWalker f s).cache = s.cache := rfl
@[simp] theorem modWalker_merge (f : Walker → Walker) : (modWalker f s).merge = s.merge := rfl
@[simp] theorem modWalker_writer (f : Walker → Walker) : (modWalker f s).writer = s.writer := rfl
@[simp] theorem modWalker_frame (f : Walker → Walker) : (modWalker f s).frame = s.frame := rfl
@[simp] theorem modWalker_powerOns (f : Walker → Walker) : (modWalker f s).powerOns = s.powerOns := rfl
@[simp] theorem modWalker_nextOp (f : Walker → Walker) : (modWalker f s).nextOp = s.nextOp := rfl
@[simp] theorem modWalker_pending (f : Walker → Walker) : (modWalker f s).pending = s.pending := rfl

/-! ## modPlate -/

@[simp] theorem modPlate_port (f : Plate → Plate) : (modPlate f s).port = s.port := rfl
@[simp] theorem modPlate_walker (f : Plate → Plate) : (modPlate f s).walker = s.walker := rfl
@[simp] theorem modPlate_plate (f : Plate → Plate) : (modPlate f s).plate = f s.plate := rfl
@[simp] theorem modPlate_bus (f : Plate → Plate) : (modPlate f s).bus = s.bus := rfl
@[simp] theorem modPlate_intake (f : Plate → Plate) : (modPlate f s).intake = s.intake := rfl
@[simp] theorem modPlate_cache (f : Plate → Plate) : (modPlate f s).cache = s.cache := rfl
@[simp] theorem modPlate_merge (f : Plate → Plate) : (modPlate f s).merge = s.merge := rfl
@[simp] theorem modPlate_writer (f : Plate → Plate) : (modPlate f s).writer = s.writer := rfl
@[simp] theorem modPlate_frame (f : Plate → Plate) : (modPlate f s).frame = s.frame := rfl
@[simp] theorem modPlate_powerOns (f : Plate → Plate) : (modPlate f s).powerOns = s.powerOns := rfl
@[simp] theorem modPlate_nextOp (f : Plate → Plate) : (modPlate f s).nextOp = s.nextOp := rfl
@[simp] theorem modPlate_pending (f : Plate → Plate) : (modPlate f s).pending = s.pending := rfl

/-! ## modBus -/

@[simp] theorem modBus_port (f : Bus → Bus) : (modBus f s).port = s.port := rfl
@[simp] theorem modBus_walker (f : Bus → Bus) : (modBus f s).walker = s.walker := rfl
@[simp] theorem modBus_plate (f : Bus → Bus) : (modBus f s).plate = s.plate := rfl
@[simp] theorem modBus_bus (f : Bus → Bus) : (modBus f s).bus = f s.bus := rfl
@[simp] theorem modBus_intake (f : Bus → Bus) : (modBus f s).intake = s.intake := rfl
@[simp] theorem modBus_cache (f : Bus → Bus) : (modBus f s).cache = s.cache := rfl
@[simp] theorem modBus_merge (f : Bus → Bus) : (modBus f s).merge = s.merge := rfl
@[simp] theorem modBus_writer (f : Bus → Bus) : (modBus f s).writer = s.writer := rfl
@[simp] theorem modBus_frame (f : Bus → Bus) : (modBus f s).frame = s.frame := rfl
@[simp] theorem modBus_powerOns (f : Bus → Bus) : (modBus f s).powerOns = s.powerOns := rfl
@[simp] theorem modBus_nextOp (f : Bus → Bus) : (modBus f s).nextOp = s.nextOp := rfl
@[simp] theorem modBus_pending (f : Bus → Bus) : (modBus f s).pending = s.pending := rfl

/-! ## modIntake -/

@[simp] theorem modIntake_port (f : Intake → Intake) : (modIntake f s).port = s.port := rfl
@[simp] theorem modIntake_walker (f : Intake → Intake) : (modIntake f s).walker = s.walker := rfl
@[simp] theorem modIntake_plate (f : Intake → Intake) : (modIntake f s).plate = s.plate := rfl
@[simp] theorem modIntake_bus (f : Intake → Intake) : (modIntake f s).bus = s.bus := rfl
@[simp] theorem modIntake_intake (f : Intake → Intake) : (modIntake f s).intake = f s.intake := rfl
@[simp] theorem modIntake_cache (f : Intake → Intake) : (modIntake f s).cache = s.cache := rfl
@[simp] theorem modIntake_merge (f : Intake → Intake) : (modIntake f s).merge = s.merge := rfl
@[simp] theorem modIntake_writer (f : Intake → Intake) : (modIntake f s).writer = s.writer := rfl
@[simp] theorem modIntake_frame (f : Intake → Intake) : (modIntake f s).frame = s.frame := rfl
@[simp] theorem modIntake_powerOns (f : Intake → Intake) : (modIntake f s).powerOns = s.powerOns := rfl
@[simp] theorem modIntake_nextOp (f : Intake → Intake) : (modIntake f s).nextOp = s.nextOp := rfl
@[simp] theorem modIntake_pending (f : Intake → Intake) : (modIntake f s).pending = s.pending := rfl

/-! ## modCache -/

@[simp] theorem modCache_port (f : Cache → Cache) : (modCache f s).port = s.port := rfl
@[simp] theorem modCache_walker (f : Cache → Cache) : (modCache f s).walker = s.walker := rfl
@[simp] theorem modCache_plate (f : Cache → Cache) : (modCache f s).plate = s.plate := rfl
@[simp] theorem modCache_bus (f : Cache → Cache) : (modCache f s).bus = s.bus := rfl
@[simp] theorem modCache_intake (f : Cache → Cache) : (modCache f s).intake = s.intake := rfl
@[simp] theorem modCache_cache (f : Cache → Cache) : (modCache f s).cache = f s.cache := rfl
@[simp] theorem modCache_merge (f : Cache → Cache) : (modCache f s).merge = s.merge := rfl
@[simp] theorem modCache_writer (f : Cache → Cache) : (modCache f s).writer = s.writer := rfl
@[simp] theorem modCache_frame (f : Cache → Cache) : (modCache f s).frame = s.frame := rfl
@[simp] theorem modCache_powerOns (f : Cache → Cache) : (modCache f s).powerOns = s.powerOns := rfl
@[simp] theorem modCache_nextOp (f : Cache → Cache) : (modCache f s).nextOp = s.nextOp := rfl
@[simp] theorem modCache_pending (f : Cache → Cache) : (modCache f s).pending = s.pending := rfl

/-! ## modMerge -/

@[simp] theorem modMerge_port (f : Merge → Merge) : (modMerge f s).port = s.port := rfl
@[simp] theorem modMerge_walker (f : Merge → Merge) : (modMerge f s).walker = s.walker := rfl
@[simp] theorem modMerge_plate (f : Merge → Merge) : (modMerge f s).plate = s.plate := rfl
@[simp] theorem modMerge_bus (f : Merge → Merge) : (modMerge f s).bus = s.bus := rfl
@[simp] theorem modMerge_intake (f : Merge → Merge) : (modMerge f s).intake = s.intake := rfl
@[simp] theorem modMerge_cache (f : Merge → Merge) : (modMerge f s).cache = s.cache := rfl
@[simp] theorem modMerge_merge (f : Merge → Merge) : (modMerge f s).merge = f s.merge := rfl
@[simp] theorem modMerge_writer (f : Merge → Merge) : (modMerge f s).writer = s.writer := rfl
@[simp] theorem modMerge_frame (f : Merge → Merge) : (modMerge f s).frame = s.frame := rfl
@[simp] theorem modMerge_powerOns (f : Merge → Merge) : (modMerge f s).powerOns = s.powerOns := rfl
@[simp] theorem modMerge_nextOp (f : Merge → Merge) : (modMerge f s).nextOp = s.nextOp := rfl
@[simp] theorem modMerge_pending (f : Merge → Merge) : (modMerge f s).pending = s.pending := rfl

/-! ## modWriter -/

@[simp] theorem modWriter_port (f : Writer → Writer) : (modWriter f s).port = s.port := rfl
@[simp] theorem modWriter_walker (f : Writer → Writer) : (modWriter f s).walker = s.walker := rfl
@[simp] theorem modWriter_plate (f : Writer → Writer) : (modWriter f s).plate = s.plate := rfl
@[simp] theorem modWriter_bus (f : Writer → Writer) : (modWriter f s).bus = s.bus := rfl
@[simp] theorem modWriter_intake (f : Writer → Writer) : (modWriter f s).intake = s.intake := rfl
@[simp] theorem modWriter_cache (f : Writer → Writer) : (modWriter f s).cache = s.cache := rfl
@[simp] theorem modWriter_merge (f : Writer → Writer) : (modWriter f s).merge = s.merge := rfl
@[simp] theorem modWriter_writer (f : Writer → Writer) : (modWriter f s).writer = f s.writer := rfl
@[simp] theorem modWriter_frame (f : Writer → Writer) : (modWriter f s).frame = s.frame := rfl
@[simp] theorem modWriter_powerOns (f : Writer → Writer) : (modWriter f s).powerOns = s.powerOns := rfl
@[simp] theorem modWriter_nextOp (f : Writer → Writer) : (modWriter f s).nextOp = s.nextOp := rfl
@[simp] theorem modWriter_pending (f : Writer → Writer) : (modWriter f s).pending = s.pending := rfl

/-! ## modTaken -/

@[simp] theorem modTaken_port (f : TakenOrder → TakenOrder) : (modTaken f s).port = s.port := rfl
@[simp] theorem modTaken_walker (f : TakenOrder → TakenOrder) :
    (modTaken f s).walker = { s.walker with taken := s.walker.taken.map f } := rfl
@[simp] theorem modTaken_plate (f : TakenOrder → TakenOrder) : (modTaken f s).plate = s.plate := rfl
@[simp] theorem modTaken_bus (f : TakenOrder → TakenOrder) : (modTaken f s).bus = s.bus := rfl
@[simp] theorem modTaken_intake (f : TakenOrder → TakenOrder) : (modTaken f s).intake = s.intake := rfl
@[simp] theorem modTaken_cache (f : TakenOrder → TakenOrder) : (modTaken f s).cache = s.cache := rfl
@[simp] theorem modTaken_merge (f : TakenOrder → TakenOrder) : (modTaken f s).merge = s.merge := rfl
@[simp] theorem modTaken_writer (f : TakenOrder → TakenOrder) : (modTaken f s).writer = s.writer := rfl
@[simp] theorem modTaken_frame (f : TakenOrder → TakenOrder) : (modTaken f s).frame = s.frame := rfl
@[simp] theorem modTaken_powerOns (f : TakenOrder → TakenOrder) : (modTaken f s).powerOns = s.powerOns := rfl
@[simp] theorem modTaken_nextOp (f : TakenOrder → TakenOrder) : (modTaken f s).nextOp = s.nextOp := rfl
@[simp] theorem modTaken_pending (f : TakenOrder → TakenOrder) : (modTaken f s).pending = s.pending := rfl

/-! ## modActive -/

@[simp] theorem modActive_port (f : ActiveOrder → ActiveOrder) : (modActive f s).port = s.port := rfl
@[simp] theorem modActive_walker (f : ActiveOrder → ActiveOrder) :
    (modActive f s).walker = { s.walker with active := s.walker.active.map f } := rfl
@[simp] theorem modActive_plate (f : ActiveOrder → ActiveOrder) : (modActive f s).plate = s.plate := rfl
@[simp] theorem modActive_bus (f : ActiveOrder → ActiveOrder) : (modActive f s).bus = s.bus := rfl
@[simp] theorem modActive_intake (f : ActiveOrder → ActiveOrder) : (modActive f s).intake = s.intake := rfl
@[simp] theorem modActive_cache (f : ActiveOrder → ActiveOrder) : (modActive f s).cache = s.cache := rfl
@[simp] theorem modActive_merge (f : ActiveOrder → ActiveOrder) : (modActive f s).merge = s.merge := rfl
@[simp] theorem modActive_writer (f : ActiveOrder → ActiveOrder) : (modActive f s).writer = s.writer := rfl
@[simp] theorem modActive_frame (f : ActiveOrder → ActiveOrder) : (modActive f s).frame = s.frame := rfl
@[simp] theorem modActive_powerOns (f : ActiveOrder → ActiveOrder) : (modActive f s).powerOns = s.powerOns := rfl
@[simp] theorem modActive_nextOp (f : ActiveOrder → ActiveOrder) : (modActive f s).nextOp = s.nextOp := rfl
@[simp] theorem modActive_pending (f : ActiveOrder → ActiveOrder) : (modActive f s).pending = s.pending := rfl

/-! ## useOp, writeFrame -/

@[simp] theorem useOp_port : (useOp s).port = s.port := rfl
@[simp] theorem useOp_walker : (useOp s).walker = s.walker := rfl
@[simp] theorem useOp_plate : (useOp s).plate = s.plate := rfl
@[simp] theorem useOp_bus : (useOp s).bus = s.bus := rfl
@[simp] theorem useOp_intake : (useOp s).intake = s.intake := rfl
@[simp] theorem useOp_cache : (useOp s).cache = s.cache := rfl
@[simp] theorem useOp_merge : (useOp s).merge = s.merge := rfl
@[simp] theorem useOp_writer : (useOp s).writer = s.writer := rfl
@[simp] theorem useOp_frame : (useOp s).frame = s.frame := rfl
@[simp] theorem useOp_powerOns : (useOp s).powerOns = s.powerOns := rfl
@[simp] theorem useOp_nextOp : (useOp s).nextOp = s.nextOp + 1 := rfl
@[simp] theorem useOp_pending : (useOp s).pending = s.pending := rfl

@[simp] theorem writeFrame_port (base : Nat) (data : List Byte) :
    (writeFrame base data s).port = s.port := rfl
@[simp] theorem writeFrame_walker (base : Nat) (data : List Byte) :
    (writeFrame base data s).walker = s.walker := rfl
@[simp] theorem writeFrame_plate (base : Nat) (data : List Byte) :
    (writeFrame base data s).plate = s.plate := rfl
@[simp] theorem writeFrame_bus (base : Nat) (data : List Byte) :
    (writeFrame base data s).bus = s.bus := rfl
@[simp] theorem writeFrame_intake (base : Nat) (data : List Byte) :
    (writeFrame base data s).intake = s.intake := rfl
@[simp] theorem writeFrame_cache (base : Nat) (data : List Byte) :
    (writeFrame base data s).cache = s.cache := rfl
@[simp] theorem writeFrame_merge (base : Nat) (data : List Byte) :
    (writeFrame base data s).merge = s.merge := rfl
@[simp] theorem writeFrame_writer (base : Nat) (data : List Byte) :
    (writeFrame base data s).writer = s.writer := rfl
@[simp] theorem writeFrame_frame (base : Nat) (data : List Byte) :
    (writeFrame base data s).frame = memoryWrite base data s.frame := rfl
@[simp] theorem writeFrame_powerOns (base : Nat) (data : List Byte) :
    (writeFrame base data s).powerOns = s.powerOns := rfl
@[simp] theorem writeFrame_nextOp (base : Nat) (data : List Byte) :
    (writeFrame base data s).nextOp = s.nextOp := rfl
@[simp] theorem writeFrame_pending (base : Nat) (data : List Byte) :
    (writeFrame base data s).pending = s.pending := rfl

/-! ## Requests presented -/

@[simp] theorem presentWalker_port (rs : List Request) :
    (presentWalker rs s).port = { s.port with walkerRequests := s.port.walkerRequests ++ rs } := rfl
@[simp] theorem presentWalker_walker (rs : List Request) : (presentWalker rs s).walker = s.walker := rfl
@[simp] theorem presentWalker_plate (rs : List Request) : (presentWalker rs s).plate = s.plate := rfl
@[simp] theorem presentWalker_bus (rs : List Request) : (presentWalker rs s).bus = s.bus := rfl
@[simp] theorem presentWalker_intake (rs : List Request) : (presentWalker rs s).intake = s.intake := rfl
@[simp] theorem presentWalker_cache (rs : List Request) : (presentWalker rs s).cache = s.cache := rfl
@[simp] theorem presentWalker_merge (rs : List Request) : (presentWalker rs s).merge = s.merge := rfl
@[simp] theorem presentWalker_writer (rs : List Request) : (presentWalker rs s).writer = s.writer := rfl
@[simp] theorem presentWalker_frame (rs : List Request) : (presentWalker rs s).frame = s.frame := rfl
@[simp] theorem presentWalker_powerOns (rs : List Request) : (presentWalker rs s).powerOns = s.powerOns := rfl
@[simp] theorem presentWalker_nextOp (rs : List Request) : (presentWalker rs s).nextOp = s.nextOp := rfl
@[simp] theorem presentWalker_pending (rs : List Request) : (presentWalker rs s).pending = s.pending := rfl

@[simp] theorem presentCache_port (rs : List Request) :
    (presentCache rs s).port = { s.port with cacheRequests := s.port.cacheRequests ++ rs } := rfl
@[simp] theorem presentCache_walker (rs : List Request) : (presentCache rs s).walker = s.walker := rfl
@[simp] theorem presentCache_plate (rs : List Request) : (presentCache rs s).plate = s.plate := rfl
@[simp] theorem presentCache_bus (rs : List Request) : (presentCache rs s).bus = s.bus := rfl
@[simp] theorem presentCache_intake (rs : List Request) : (presentCache rs s).intake = s.intake := rfl
@[simp] theorem presentCache_cache (rs : List Request) : (presentCache rs s).cache = s.cache := rfl
@[simp] theorem presentCache_merge (rs : List Request) : (presentCache rs s).merge = s.merge := rfl
@[simp] theorem presentCache_writer (rs : List Request) : (presentCache rs s).writer = s.writer := rfl
@[simp] theorem presentCache_frame (rs : List Request) : (presentCache rs s).frame = s.frame := rfl
@[simp] theorem presentCache_powerOns (rs : List Request) : (presentCache rs s).powerOns = s.powerOns := rfl
@[simp] theorem presentCache_nextOp (rs : List Request) : (presentCache rs s).nextOp = s.nextOp := rfl
@[simp] theorem presentCache_pending (rs : List Request) : (presentCache rs s).pending = s.pending := rfl

@[simp] theorem presentWriter_port (rs : List Request) :
    (presentWriter rs s).port = { s.port with writerRequests := s.port.writerRequests ++ rs } := rfl
@[simp] theorem presentWriter_walker (rs : List Request) : (presentWriter rs s).walker = s.walker := rfl
@[simp] theorem presentWriter_plate (rs : List Request) : (presentWriter rs s).plate = s.plate := rfl
@[simp] theorem presentWriter_bus (rs : List Request) : (presentWriter rs s).bus = s.bus := rfl
@[simp] theorem presentWriter_intake (rs : List Request) : (presentWriter rs s).intake = s.intake := rfl
@[simp] theorem presentWriter_cache (rs : List Request) : (presentWriter rs s).cache = s.cache := rfl
@[simp] theorem presentWriter_merge (rs : List Request) : (presentWriter rs s).merge = s.merge := rfl
@[simp] theorem presentWriter_writer (rs : List Request) : (presentWriter rs s).writer = s.writer := rfl
@[simp] theorem presentWriter_frame (rs : List Request) : (presentWriter rs s).frame = s.frame := rfl
@[simp] theorem presentWriter_powerOns (rs : List Request) : (presentWriter rs s).powerOns = s.powerOns := rfl
@[simp] theorem presentWriter_nextOp (rs : List Request) : (presentWriter rs s).nextOp = s.nextOp := rfl
@[simp] theorem presentWriter_pending (rs : List Request) : (presentWriter rs s).pending = s.pending := rfl

@[simp] theorem presentControl_port (rs : List Request) :
    (presentControl rs s).port = { s.port with controlRequests := s.port.controlRequests ++ rs } := rfl
@[simp] theorem presentControl_walker (rs : List Request) : (presentControl rs s).walker = s.walker := rfl
@[simp] theorem presentControl_plate (rs : List Request) : (presentControl rs s).plate = s.plate := rfl
@[simp] theorem presentControl_bus (rs : List Request) : (presentControl rs s).bus = s.bus := rfl
@[simp] theorem presentControl_intake (rs : List Request) : (presentControl rs s).intake = s.intake := rfl
@[simp] theorem presentControl_cache (rs : List Request) : (presentControl rs s).cache = s.cache := rfl
@[simp] theorem presentControl_merge (rs : List Request) : (presentControl rs s).merge = s.merge := rfl
@[simp] theorem presentControl_writer (rs : List Request) : (presentControl rs s).writer = s.writer := rfl
@[simp] theorem presentControl_frame (rs : List Request) : (presentControl rs s).frame = s.frame := rfl
@[simp] theorem presentControl_powerOns (rs : List Request) : (presentControl rs s).powerOns = s.powerOns := rfl
@[simp] theorem presentControl_nextOp (rs : List Request) : (presentControl rs s).nextOp = s.nextOp := rfl
@[simp] theorem presentControl_pending (rs : List Request) : (presentControl rs s).pending = s.pending := rfl

end Sys2Proof.Machine
end

