-- ==== Sys2Proof/Laws/Cache.lean ====
section
/-! SUPPORT. What the Reference Cache's shared operations make of one entry: an entry carried by no index, and an entry
entered by a hit or a load with its pin request applied (R82 to R84). -/

namespace Sys2Proof.Machine

theorem modify_eq_set {α : Type} {l : List α} {n : Nat} {f : α → α} {x : α} (h : l[n]? = some x) :
    l.modify n f = l.set n (f x) := by
  apply List.ext_getElem?
  intro i
  rw [List.getElem?_modify, List.getElem?_set]
  by_cases e : n = i
  · subst e
    obtain ⟨hl, hx⟩ := List.getElem?_eq_some_iff.mp h
    simp [hl, hx]
  · simp [e]

/-- An entry replaced by one pinned as it was leaves the count of pinned entries. -/
theorem pinned_length_set {l : List CacheEntry} {n : Nat} {x y : CacheEntry} (h : l[n]? = some x)
    (hp : y.pinned = x.pinned) :
    ((l.set n y).filter CacheEntry.pinned).length = (l.filter CacheEntry.pinned).length := by
  induction l generalizing n with
  | nil => simp at h
  | cons a l ih =>
    cases n with
    | zero =>
      simp only [List.getElem?_cons_zero, Option.some.injEq] at h
      subst h
      simp only [List.set_cons_zero, List.filter_cons, hp]
      cases a.pinned <;> simp
    | succ n =>
      simp only [List.set_cons_succ, List.filter_cons]
      have := ih (by simpa using h)
      cases a.pinned <;> simp [this]

/-- No entry carries an index exactly when every entry with it is EMPTY (R83). -/
theorem carrying_eq_none_iff (s : State) (index : Nat) :
    carrying s index = none ↔ ∀ x ∈ s.cache.entries, x.state ≠ .empty → x.index ≠ index := by
  unfold carrying
  rw [List.find?_eq_none]
  constructor
  · intro h x hx hs hi
    obtain ⟨k, hk, rfl⟩ := List.mem_iff_getElem.mp hx
    have := h k (List.mem_range.mpr hk)
    simp only [entryAt, List.getD_eq_getElem?_getD, List.getElem?_eq_getElem hk, Option.getD_some, Bool.and_eq_true,
      decide_eq_true_eq, not_and] at this
    exact this hs hi
  · intro h k hk
    have hk' := List.mem_range.mp hk
    have := h _ (List.getElem_mem hk')
    simp only [entryAt, List.getD_eq_getElem?_getD, List.getElem?_eq_getElem hk', Option.getD_some, Bool.and_eq_true,
      decide_eq_true_eq, not_and]
    exact this

/-- An entry a resolution enters, by a hit or by a load: it goes to the head of the LRU list unless it is pinned, and
its pin request is granted below 32 pinned entries, else refused and counted (R82, R84). -/
theorem applyPin_entered {s : State} {n : Nat} {x after : CacheEntry} {req : Bool} {w : Settings}
    {f : CacheEntry → CacheEntry} (hx : s.cache.entries[n]? = some x) (hp : after.pinned = x.pinned) (hf : f x = after)
    (hw : s.port.settings = some w) :
    applyPin n req (toLruHead n (modEntry n f s)) =
      let refused := req = true ∧ x.pinned = false ∧ 32 ≤ pinnedCount s
      let pinned : Bool := req && !decide refused
      let others := s.cache.lru.filter (· ≠ n)
      let count := s.cache.pinRefused + 1
      { s with
        cache := { s.cache with
          entries := s.cache.entries.set n { after with pinned := pinned }
          lru := if req = true ∧ x.pinned = true then s.cache.lru else if pinned then others else n :: others
          pinRefused := if refused then count else s.cache.pinRefused }
        port := { s.port with cacheRequests := s.port.cacheRequests ++
          if refused then [⟨.write (leBytes 4 count.toNat), w.anchor + 272, .cacheWrite, false⟩] else [] } } := by
  have hl : n < s.cache.entries.length := (List.getElem?_eq_some_iff.mp hx).1
  have hm : modEntry n f s = { s with cache := { s.cache with
      entries := s.cache.entries.set n after, lru := s.cache.lru } } := by
    simp [modEntry, modCache, modify_eq_set hx, hf]
  have hat : ∀ lru, entryAt { s with cache := { s.cache with
      entries := s.cache.entries.set n after, lru := lru } } n = after := by
    intro lru
    simp [entryAt, hl]
  have hset : ∀ y, (s.cache.entries.set n after).modify n y = s.cache.entries.set n (y after) := by
    intro y
    rw [modify_eq_set (x := after) (by simp [hl]), List.set_set]
  have hcount : ∀ lru, pinnedCount { s with cache := { s.cache with
      entries := s.cache.entries.set n after, lru := lru } } = pinnedCount s :=
    fun lru => pinned_length_set hx hp
  have heta : ∀ b, after.pinned = b → ({ after with pinned := b } : CacheEntry) = after := by
    intro b hb
    subst hb
    rfl
  rw [hm]
  unfold toLruHead
  rw [hat]
  cases hxp : x.pinned
  · rw [hxp] at hp
    rw [if_neg (by simp [hp])]
    dsimp only [modCache]
    unfold applyPin
    rw [hat, hp]
    cases req
    · simp [heta false hp]
    · dsimp only
      rw [hcount]
      by_cases h32 : 32 ≤ pinnedCount s
      · rw [if_neg (by simpa [Config.pinLimit] using h32)]
        simp [h32, refusePin, presentCache, modCache, modPort, anchorField, hw, writeRequest, heta false hp]
      · rw [if_pos (by simp only [Config.pinLimit]; omega)]
        simp [h32, pinEntry, modEntry, modCache, hset]
  · rw [hxp] at hp
    rw [if_pos (by simp [hp])]
    unfold applyPin
    rw [hat, hp]
    cases req
    · dsimp only
      unfold unpinEntry toLruHead modEntry
      simp [modCache, hset, entryAt, hl]
    · simp [heta true hp]

end Sys2Proof.Machine
end

