-- ==== Sys2Proof/Laws/Memory.lean ====
section
/-! SUPPORT. What the memory operations do: the canonical form is kept, a read gives what the last write left, bytes
outside a write stay. -/

namespace Sys2Proof.Machine

theorem cellsFrom_key {base : Nat} {data : List Byte} {c : Host.Cell} (h : c ∈ cellsFrom base data) :
    base ≤ c.1 ∧ c.1 < base + data.length := by
  induction data generalizing base with
  | nil => simp [cellsFrom] at h
  | cons b rest ih =>
    simp only [cellsFrom, List.mem_cons] at h
    rcases h with h | h
    · subst h; simp
    · have := ih h; simp only [List.length_cons]; omega

theorem cellsFrom_sorted (base : Nat) (data : List Byte) : Memory.wf (cellsFrom base data) := by
  induction data generalizing base with
  | nil => exact List.Pairwise.nil
  | cons b rest ih =>
    refine List.Pairwise.cons (fun c hc => ?_) (ih (base + 1))
    have := (cellsFrom_key hc).1
    omega

/-- A write keeps the canonical form. -/
theorem memoryWrite_wf {m : List Host.Cell} (h : Memory.wf m) (base : Nat) (data : List Byte) :
    Memory.wf (memoryWrite base data m) := by
  unfold memoryWrite Memory.wf
  refine List.pairwise_append.2 ⟨List.pairwise_append.2 ⟨h.filter _, cellsFrom_sorted _ _, ?_⟩, h.filter _, ?_⟩
  · intro a ha b hb
    have h1 := (List.mem_filter.1 ha).2
    have h2 := (cellsFrom_key hb).1
    simp only [decide_eq_true_eq] at h1
    omega
  · intro a ha b hb
    have h2 := (List.mem_filter.1 hb).2
    simp only [decide_eq_true_eq] at h2
    rcases List.mem_append.1 ha with ha | ha
    · have h1 := (List.mem_filter.1 ha).2
      simp only [decide_eq_true_eq] at h1
      omega
    · have h1 := (cellsFrom_key ha).2
      omega

theorem memoryRead_append_of_none {m n : List Host.Cell} {a : Nat} (h : ∀ c ∈ m, c.1 ≠ a) :
    memoryRead (m ++ n) a = memoryRead n a := by
  induction m with
  | nil => rfl
  | cons c m ih =>
    have hc : c.1 ≠ a := h c (by simp)
    obtain ⟨k, b⟩ := c
    simp only [List.cons_append, memoryRead, if_neg hc]
    exact ih fun c hc => h c (by simp [hc])

theorem memoryRead_append_none_right {m n : List Host.Cell} {a : Nat} (h : ∀ c ∈ n, c.1 ≠ a) :
    memoryRead (m ++ n) a = memoryRead m a := by
  induction m with
  | nil =>
    rw [List.nil_append]
    have := memoryRead_append_of_none (n := []) h
    simpa using this
  | cons c m ih =>
    obtain ⟨k, b⟩ := c
    simp only [List.cons_append, memoryRead, ih]

theorem memoryRead_filter {m : List Host.Cell} {p : Host.Cell → Bool} {a : Nat} (h : ∀ b, p (a, b) = true) :
    memoryRead (m.filter p) a = memoryRead m a := by
  induction m with
  | nil => rfl
  | cons c m ih =>
    obtain ⟨k, b⟩ := c
    by_cases hk : k = a
    · subst hk; simp [h, memoryRead]
    · by_cases hp : p (k, b) = true
      · simp [hp, memoryRead, hk, ih]
      · simp [hp, memoryRead, hk, ih]

theorem memoryRead_cellsFrom (base : Nat) (data : List Byte) (i : Nat) :
    memoryRead (cellsFrom base data) (base + i) = data[i]? := by
  induction data generalizing base i with
  | nil => rfl
  | cons b rest ih =>
    cases i with
    | zero => simp [cellsFrom, memoryRead]
    | succ i =>
      have h := ih (base + 1) i
      simp only [cellsFrom, memoryRead, List.getElem?_cons_succ]
      rw [if_neg (by omega), ← h]
      congr 1
      omega

/-- A byte outside the bytes written reads as before. -/
theorem memoryRead_write_outside (m : List Host.Cell) (base : Nat) (data : List Byte) {a : Nat}
    (h : a < base ∨ base + data.length ≤ a) :
    memoryRead (memoryWrite base data m) a = memoryRead m a := by
  unfold memoryWrite
  rcases h with h | h
  · rw [memoryRead_append_none_right, memoryRead_append_none_right, memoryRead_filter]
    · intro b; simp [h]
    · intro c hc; have := (cellsFrom_key hc).1; omega
    · intro c hc; have := (List.mem_filter.1 hc).2; simp only [decide_eq_true_eq] at this; omega
  · rw [memoryRead_append_of_none, memoryRead_filter]
    · intro b; simp [h]
    · intro c hc
      rcases List.mem_append.1 hc with hc | hc
      · have := (List.mem_filter.1 hc).2; simp only [decide_eq_true_eq] at this; omega
      · have := (cellsFrom_key hc).2; omega

/-- A byte written reads as written. -/
theorem memoryRead_write_inside (m : List Host.Cell) (base : Nat) (data : List Byte) {i : Nat}
    (h : i < data.length) : memoryRead (memoryWrite base data m) (base + i) = data[i]? := by
  unfold memoryWrite
  rw [List.append_assoc, memoryRead_append_of_none, memoryRead_append_none_right, memoryRead_cellsFrom]
  · intro c hc; have := (List.mem_filter.1 hc).2; simp only [decide_eq_true_eq] at this; omega
  · intro c hc; have := (List.mem_filter.1 hc).2; simp only [decide_eq_true_eq] at this; omega

@[simp] theorem fillBytes_length (u : Nat → Byte) (n a : Nat) (m : List Host.Cell) :
    (fillBytes u n a m).length = n := by
  induction n generalizing a m with
  | zero => rfl
  | succ n ih =>
    cases m with
    | nil => simp [fillBytes, ih]
    | cons c m =>
      obtain ⟨k, b⟩ := c
      by_cases hk : k = a <;> simp [fillBytes, hk, ih]

/-- As many bytes as asked for. -/
@[simp] theorem frameBytes_length (s : State) (base n : Nat) : (frameBytes s base n).length = n :=
  fillBytes_length _ _ _ _

theorem memoryRead_eq_none_of_lt {m : List Host.Cell} {a : Nat} (h : ∀ c ∈ m, a < c.1) : memoryRead m a = none := by
  induction m with
  | nil => rfl
  | cons c m ih =>
    obtain ⟨k, b⟩ := c
    have hk : a < k := h (k, b) (by simp)
    simp only [memoryRead, if_neg (by omega : ¬k = a)]
    exact ih fun c hc => h c (by simp [hc])

theorem fillBytes_getElem? (u : Nat → Byte) {n : Nat} {a : Nat} {m : List Host.Cell} (hm : Memory.wf m)
    (ha : ∀ c ∈ m, a ≤ c.1) {i : Nat} (hi : i < n) :
    (fillBytes u n a m)[i]? = some ((memoryRead m (a + i)).getD (u (a + i))) := by
  induction n generalizing a m i with
  | zero => omega
  | succ n ih =>
    cases m with
    | nil =>
      cases i with
      | zero => simp [fillBytes, memoryRead]
      | succ i =>
        have := ih (a := a + 1) (m := []) List.Pairwise.nil (by simp) (i := i) (by omega)
        simp only [fillBytes, List.getElem?_cons_succ, this, memoryRead]
        rw [show a + 1 + i = a + (i + 1) by omega]
    | cons c m =>
      obtain ⟨k, b⟩ := c
      have hk : a ≤ k := ha (k, b) (by simp)
      have hlt : ∀ c ∈ m, k < c.1 := fun c hc => (List.pairwise_cons.1 hm).1 c hc
      have hm' : Memory.wf m := (List.pairwise_cons.1 hm).2
      by_cases hka : k = a
      · subst hka
        cases i with
        | zero => simp [fillBytes, memoryRead]
        | succ i =>
          have := ih (a := k + 1) (m := m) hm' (fun c hc => hlt c hc) (i := i) (by omega)
          simp only [fillBytes, if_true, List.getElem?_cons_succ, this, memoryRead]
          rw [show k + 1 + i = k + (i + 1) by omega, if_neg (by omega : ¬k = k + (i + 1))]
      · cases i with
        | zero =>
          have : memoryRead ((k, b) :: m) a = none :=
            memoryRead_eq_none_of_lt fun c hc => by
              rcases List.mem_cons.1 hc with hc | hc
              · subst hc; exact Nat.lt_of_le_of_ne hk fun h => hka h.symm
              · have := hlt c hc; omega
          simp [fillBytes, hka, this]
        | succ i =>
          have := ih (a := a + 1) (m := (k, b) :: m) hm
            (fun c hc => by
              rcases List.mem_cons.1 hc with hc | hc
              · subst hc; omega
              · have := hlt c hc; omega) (i := i) (by omega)
          simp only [fillBytes, if_neg hka, List.getElem?_cons_succ, this]
          rw [show a + 1 + i = a + (i + 1) by omega]

theorem memoryRead_dropWhile {m : List Host.Cell} (hm : Memory.wf m) (base : Nat) {a : Nat} (h : base ≤ a) :
    memoryRead (m.dropWhile (fun c => c.1 < base)) a = memoryRead m a := by
  induction m with
  | nil => rfl
  | cons c m ih =>
    obtain ⟨k, b⟩ := c
    by_cases hk : k < base
    · simp [hk, memoryRead, show ¬k = a by omega]
      simpa using ih (List.pairwise_cons.1 hm).2
    · simp [hk]

/-- Byte `i` of a range of frame memory is the byte written there, or the free value of log 1. -/
theorem frameBytes_getElem? {s : State} (hm : Memory.wf s.frame) (base : Nat) {n i : Nat} (hi : i < n) :
    (frameBytes s base n)[i]? =
      some ((memoryRead s.frame (base + i)).getD (Config.undefinedFrameByte s.powerOns (base + i))) := by
  unfold frameBytes
  rw [fillBytes_getElem?]
  · rw [memoryRead_dropWhile hm _ (by omega)]
  · exact hm.sublist (List.dropWhile_sublist _)
  · intro c hc
    have hs : Memory.wf (s.frame.dropWhile fun c => c.1 < base) := hm.sublist (List.dropWhile_sublist _)
    cases hd : s.frame.dropWhile (fun c => c.1 < base) with
    | nil => rw [hd] at hc; simp at hc
    | cons d rest =>
      have hne : ¬d.1 < base := by
        have := List.head?_dropWhile_not (fun c : Host.Cell => decide (c.1 < base)) s.frame
        rw [hd] at this
        simpa using this
      rw [hd] at hc hs
      rcases List.mem_cons.1 hc with hc | hc
      · subst hc; omega
      · have := (List.pairwise_cons.1 hs).1 c hc; omega
  · exact hi

/-- Frame memory is empty at reset, and in canonical form. -/
theorem reset_memory_wf : Memory.wf State.reset.frame := List.Pairwise.nil

end Sys2Proof.Machine
end

