-- ==== Sys2Proof/Laws/Keeps.lean ====
section
/-! SUPPORT. What the operations below the events keep: frame memory byte for byte, and the bounds of Safety.lean. -/

namespace Sys2Proof.Machine

theorem SameOutside.refl (s : State) : SameOutside s s := ⟨rfl, rfl, rfl⟩

theorem SameOutside.trans {r s t : State} (h : SameOutside r s) (g : SameOutside s t) : SameOutside r t :=
  ⟨g.queue.trans h.queue, g.powerOns.trans h.powerOns, g.inputs.trans h.inputs⟩

/-- From `s` to `t` frame memory and what lies outside the blocks are the same, and the bounds last. -/
structure Keeps (s t : State) : Prop where
  outside : SameOutside s t
  frame : t.frame = s.frame
  bounded : Bounded s → Bounded t

theorem Keeps.refl (s : State) : Keeps s s := ⟨.refl s, rfl, id⟩

theorem Keeps.trans {r s t : State} (h : Keeps r s) (g : Keeps s t) : Keeps r t :=
  ⟨h.outside.trans g.outside, g.frame.trans h.frame, fun b => g.bounded (h.bounded b)⟩

theorem Inv.of_keeps {s t : State} (h : Keeps s t) (i : Inv s) : Inv t :=
  ⟨h.bounded i.bounded, by rw [h.frame]; exact i.memory⟩

section
variable {r s : State}

theorem modWalker_keeps {f : Walker → Walker} (h : Keeps r s) : Keeps r (modWalker f s) :=
  h.trans ⟨⟨rfl, rfl, rfl⟩, rfl, fun b => ⟨b.slots, b.entries, b.reads, b.triggers, b.fifo, b.pins, b.once, b.queue⟩⟩

theorem modPlate_keeps {f : Plate → Plate} (h : Keeps r s) : Keeps r (modPlate f s) :=
  h.trans ⟨⟨rfl, rfl, rfl⟩, rfl, fun b => ⟨b.slots, b.entries, b.reads, b.triggers, b.fifo, b.pins, b.once, b.queue⟩⟩

/-- The bus controller changed, with no more requests in its queue. -/
theorem modBus_keeps {f : Bus → Bus} (hf : ∀ b, (f b).queue.length ≤ b.queue.length) (h : Keeps r s) :
    Keeps r (modBus f s) :=
  h.trans ⟨⟨rfl, rfl, rfl⟩, rfl, fun b =>
    ⟨b.slots, b.entries, b.reads, b.triggers, b.fifo, b.pins, b.once, le_trans (hf s.bus) b.queue⟩⟩

theorem modMerge_keeps {f : Merge → Merge} (h : Keeps r s) : Keeps r (modMerge f s) :=
  h.trans ⟨⟨rfl, rfl, rfl⟩, rfl, fun b => ⟨b.slots, b.entries, b.reads, b.triggers, b.fifo, b.pins, b.once, b.queue⟩⟩

theorem modWriter_keeps {f : Writer → Writer} (h : Keeps r s) : Keeps r (modWriter f s) :=
  h.trans ⟨⟨rfl, rfl, rfl⟩, rfl, fun b => ⟨b.slots, b.entries, b.reads, b.triggers, b.fifo, b.pins, b.once, b.queue⟩⟩

theorem modTaken_keeps {f : TakenOrder → TakenOrder} (h : Keeps r s) : Keeps r (modTaken f s) := modWalker_keeps h

theorem modActive_keeps {f : ActiveOrder → ActiveOrder} (h : Keeps r s) : Keeps r (modActive f s) :=
  modWalker_keeps h

theorem useOp_keeps (h : Keeps r s) : Keeps r (useOp s) :=
  h.trans ⟨⟨rfl, rfl, rfl⟩, rfl, fun b => ⟨b.slots, b.entries, b.reads, b.triggers, b.fifo, b.pins, b.once, b.queue⟩⟩

theorem modPort_keeps {f : Port → Port} (hf : ∀ p, (f p).reads = p.reads ∧ inputsOf (f p) = inputsOf p)
    (h : Keeps r s) : Keeps r (modPort f s) :=
  h.trans ⟨⟨rfl, rfl, (hf s.port).2⟩, rfl, fun b =>
    ⟨b.slots, b.entries, by simpa [hf] using b.reads, b.triggers, b.fifo, b.pins, b.once, b.queue⟩⟩

theorem modIntake_keeps {f : Intake → Intake}
    (hf : ∀ i, (f i).slots = i.slots ∧ (f i).triggers = i.triggers ∧ (f i).fifo = i.fifo) (h : Keeps r s) :
    Keeps r (modIntake f s) :=
  h.trans ⟨⟨rfl, rfl, rfl⟩, rfl, fun b =>
    ⟨by simpa [hf] using b.slots, b.entries, b.reads, by simpa [hf] using b.triggers,
      by simpa [fifoLevel, hf] using b.fifo, b.pins, b.once, b.queue⟩⟩

theorem modCache_keeps {f : Cache → Cache} (hf : ∀ c, (f c).entries = c.entries) (h : Keeps r s) :
    Keeps r (modCache f s) :=
  h.trans ⟨⟨rfl, rfl, rfl⟩, rfl, fun b =>
    ⟨b.slots, by simpa [hf] using b.entries, b.reads, b.triggers, b.fifo, by simpa [pinnedCount, hf] using b.pins,
      by simpa [hf] using b.once, b.queue⟩⟩

theorem modSlot_keeps {n : Nat} {f : Slot → Slot} (h : Keeps r s) : Keeps r (modSlot n f s) :=
  h.trans ⟨⟨rfl, rfl, rfl⟩, rfl, fun b =>
    ⟨by simpa [modSlot] using b.slots, b.entries, b.reads, b.triggers, b.fifo, b.pins, b.once, b.queue⟩⟩

/-- Fewer triggers stay within the bound. -/
theorem fewerTriggers_keeps {f : Intake → Intake}
    (hf : ∀ i, (f i).slots = i.slots ∧ (f i).triggers.length ≤ i.triggers.length ∧ (f i).fifo = i.fifo)
    (h : Keeps r s) : Keeps r (modIntake f s) :=
  h.trans ⟨⟨rfl, rfl, rfl⟩, rfl, fun b =>
    ⟨by simpa [hf] using b.slots, b.entries, b.reads, le_trans (hf s.intake).2.1 b.triggers,
      by simpa [fifoLevel, hf] using b.fifo, b.pins, b.once, b.queue⟩⟩

/-- The FIFO changed, within the bound on its rows. -/
theorem fifo_keeps {f : Intake → Intake} (hf : ∀ i, (f i).slots = i.slots ∧ (f i).triggers = i.triggers)
    (hl : fifoLevel s ≤ Config.fifoPlaces → fifoLevel (modIntake f s) ≤ Config.fifoPlaces) (h : Keeps r s) :
    Keeps r (modIntake f s) :=
  h.trans ⟨⟨rfl, rfl, rfl⟩, rfl, fun b =>
    ⟨by simpa [hf] using b.slots, b.entries, b.reads, by simpa [hf] using b.triggers, hl b.fifo, b.pins, b.once, b.queue⟩⟩

/-- A trigger listed while the list has a place (R61). -/
theorem listTrigger_keeps {f : Intake → Intake}
    (hf : ∀ i, (f i).slots = i.slots ∧ (f i).triggers.length = i.triggers.length + 1 ∧ (f i).fifo = i.fifo)
    (ht : s.intake.triggers.length < Config.triggerPlaces) (h : Keeps r s) : Keeps r (modIntake f s) :=
  h.trans ⟨⟨rfl, rfl, rfl⟩, rfl, fun b =>
    ⟨by simpa [hf] using b.slots, b.entries, b.reads,
      le_trans (by simp [hf s.intake]) (Nat.succ_le_of_lt ht), by simpa [fifoLevel, hf] using b.fifo, b.pins, b.once, b.queue⟩⟩

/-- Reads added or gone, within the bound. -/
theorem reads_keeps {f : Port → Port} (hi : ∀ p, inputsOf (f p) = inputsOf p)
    (hf : s.port.reads.length ≤ Config.maxReads → (f s.port).reads.length ≤ Config.maxReads) (h : Keeps r s) :
    Keeps r (modPort f s) :=
  h.trans ⟨⟨rfl, rfl, hi s.port⟩, rfl, fun b => ⟨b.slots, b.entries, hf b.reads, b.triggers, b.fifo, b.pins, b.once, b.queue⟩⟩

/-- Bytes written into frame memory keep the invariant. -/
theorem writeFrame_inv {base : Nat} {data : List Byte} (h : Inv s) : Inv (writeFrame base data s) :=
  ⟨⟨h.bounded.slots, h.bounded.entries, h.bounded.reads, h.bounded.triggers, h.bounded.fifo, h.bounded.pins,
      h.bounded.once, h.bounded.queue⟩,
    memoryWrite_wf h.memory _ _⟩

theorem foldl_keeps {α : Type} {f : State → α → State} (hf : ∀ {s a}, Keeps r s → Keeps r (f s a)) {l : List α}
    (h : Keeps r s) : Keeps r (l.foldl f s) := by
  induction l generalizing s with
  | nil => exact h
  | cons a l ih => exact ih (hf h)

theorem pinned_modify_le {entries : List CacheEntry} {n : Nat} {f : CacheEntry → CacheEntry}
    (hf : ∀ e, (f e).pinned = true → e.pinned = true) :
    ((entries.modify n f).filter CacheEntry.pinned).length ≤ (entries.filter CacheEntry.pinned).length := by
  induction entries generalizing n with
  | nil => simp
  | cons e rest ih =>
    cases n with
    | zero =>
      have := hf e
      rw [List.modify_zero_cons]
      by_cases hp : (f e).pinned = true
      · simp [hp, this hp]
      · by_cases he : e.pinned = true <;> simp [hp, he]
    | succ n =>
      rw [List.modify_succ_cons]
      have := ih (n := n)
      by_cases he : e.pinned = true <;> simp [he] <;> omega

theorem pinned_modify_le_succ (entries : List CacheEntry) (n : Nat) (f : CacheEntry → CacheEntry) :
    ((entries.modify n f).filter CacheEntry.pinned).length ≤ (entries.filter CacheEntry.pinned).length + 1 := by
  induction entries generalizing n with
  | nil => simp
  | cons e rest ih =>
    cases n with
    | zero =>
      rw [List.modify_zero_cons]
      by_cases hp : (f e).pinned = true <;> by_cases he : e.pinned = true <;> simp [hp, he]; omega
    | succ n =>
      rw [List.modify_succ_cons]
      have := ih n
      by_cases he : e.pinned = true <;> simp [he] <;> omega

/-- An entry changed that carried an index before, and the same one, where it carries one after. -/
theorem carriedOnce_modify {entries : List CacheEntry} {n : Nat} {f : CacheEntry → CacheEntry}
    (hf : ∀ e, (f e).state ≠ .empty → e.state ≠ .empty ∧ (f e).index = e.index) (h : CarriedOnce entries) :
    CarriedOnce (entries.modify n f) := by
  have before : ∀ (i : Nat) (a : CacheEntry), (entries.modify n f)[i]? = some a → a.state ≠ .empty →
      ∃ a', entries[i]? = some a' ∧ a'.state ≠ .empty ∧ a.index = a'.index := by
    intro i a ha hs
    rw [List.getElem?_modify] at ha
    obtain ⟨a', ha', rfl⟩ := Option.map_eq_some_iff.1 ha
    by_cases hn : n = i
    · simp only [hn, if_true] at hs ⊢
      exact ⟨a', ha', (hf a' hs).1, (hf a' hs).2⟩
    · simp only [hn, if_false] at hs ⊢
      exact ⟨a', ha', hs, rfl⟩
  intro i j a b ha hb hsa hsb he
  obtain ⟨a', ha', hsa', hia⟩ := before i a ha hsa
  obtain ⟨b', hb', hsb', hib⟩ := before j b hb hsb
  exact h i j a' b' ha' hb' hsa' hsb' (hia.symm.trans (he.trans hib))

/-- With every entry EMPTY none carries an index. -/
theorem carriedOnce_reset : CarriedOnce Cache.reset.entries := by
  intro i j a b ha _ hs
  have : a = .reset := by
    have := List.mem_of_getElem? ha
    exact List.eq_of_mem_replicate this
  exact absurd (congrArg CacheEntry.state this) hs

/-- Every entry that carries the index is entry `n`. -/
def CarriesOnly (s : State) (index n : Nat) : Prop :=
  ∀ (j : Nat) (a : CacheEntry), s.cache.entries[j]? = some a → a.state ≠ .empty → a.index = index → j = n

theorem entryAt_of_get {j : Nat} {a : CacheEntry} (ha : s.cache.entries[j]? = some a) : entryAt s j = a := by
  simp [entryAt, List.getD_eq_getElem?_getD, ha]

/-- An entry found to carry the index is the only one (R83). -/
theorem carrying_only {index n : Nat} (b : Bounded s) (h : carrying s index = some n) : CarriesOnly s index n := by
  have found := List.find?_some h
  have hn : n < s.cache.entries.length := by simpa using List.mem_of_find?_eq_some h
  simp only [Bool.and_eq_true, decide_eq_true_eq] at found
  have hg : s.cache.entries[n]? = some (entryAt s n) := by
    simp [entryAt, List.getD_eq_getElem?_getD, List.getElem?_eq_getElem hn]
  exact fun j a ha hs hi => b.once j n a _ ha hg hs found.1 (hi.trans found.2.symm)

/-- With no entry found, none carries the index. -/
theorem carrying_none {index n : Nat} (h : carrying s index = none) : CarriesOnly s index n := by
  intro j a ha hs hi
  have hj : j < s.cache.entries.length := by
    by_contra hc
    simp [List.getElem?_eq_none (not_lt.1 hc)] at ha
  have := List.find?_eq_none.1 h j (by simpa using hj)
  simp [entryAt_of_get ha, hs, hi] at this

/-- An entry changed, but neither pinned nor made to carry an index. -/
theorem modEntry_keeps {n : Nat} {f : CacheEntry → CacheEntry}
    (hf : ∀ e, ((f e).pinned = true → e.pinned = true) ∧
      ((f e).state ≠ .empty → e.state ≠ .empty ∧ (f e).index = e.index))
    (h : Keeps r s) : Keeps r (modEntry n f s) :=
  h.trans ⟨⟨rfl, rfl, rfl⟩, rfl, fun b =>
    ⟨b.slots, by simpa [modEntry] using b.entries, b.reads, b.triggers, b.fifo,
      le_trans (pinned_modify_le fun e => (hf e).1) b.pins, carriedOnce_modify (fun e => (hf e).2) b.once, b.queue⟩⟩

/-- An entry that begins to carry an index no other carries (R83, R84, R94). -/
theorem carryEntry_keeps {n index : Nat} {f : CacheEntry → CacheEntry}
    (hf : ∀ e, ((f e).pinned = true → e.pinned = true) ∧ (f e).index = index)
    (hn : Bounded s → CarriesOnly s index n) (h : Keeps r s) : Keeps r (modEntry n f s) :=
  h.trans ⟨⟨rfl, rfl, rfl⟩, rfl, fun b =>
    ⟨b.slots, by simpa [modEntry] using b.entries, b.reads, b.triggers, b.fifo,
      le_trans (pinned_modify_le fun e => (hf e).1) b.pins, by
        have only := hn b
        have at_index : ∀ (i : Nat) (a : CacheEntry), (s.cache.entries.modify n f)[i]? = some a →
            (i = n ∧ a.index = index) ∨ (i ≠ n ∧ s.cache.entries[i]? = some a) := by
          intro i a ha
          rw [List.getElem?_modify] at ha
          obtain ⟨a', ha', rfl⟩ := Option.map_eq_some_iff.1 ha
          by_cases hi : n = i
          · exact .inl ⟨hi.symm, by simp [hi, (hf a').2]⟩
          · exact .inr ⟨fun e => hi e.symm, by simp [hi, ha']⟩
        intro i j a c ha hc hsa hsc he
        rcases at_index i a ha with ⟨rfl, hai⟩ | ⟨hin, ha'⟩ <;> rcases at_index j c hc with ⟨rfl, hci⟩ | ⟨hjn, hc'⟩
        · rfl
        · exact absurd (only j c hc' hsc (he ▸ hai)) hjn
        · exact absurd (only i a ha' hsa (he.trans hci)) hin
        · exact b.once i j a c ha' hc' hsa hsc he, b.queue⟩⟩

/-- A pin given while fewer than 32 are pinned (R82). -/
theorem pinEntry_keeps {n : Nat} (hp : pinnedCount s < Config.pinLimit) (h : Keeps r s) : Keeps r (pinEntry n s) :=
  h.trans ⟨⟨rfl, rfl, rfl⟩, rfl, fun b =>
    ⟨b.slots, by simpa [pinEntry, modEntry] using b.entries, b.reads, b.triggers, b.fifo,
      le_trans (pinned_modify_le_succ s.cache.entries n _) hp, carriedOnce_modify (fun _ hs => ⟨hs, rfl⟩) b.once, b.queue⟩⟩

end

end Sys2Proof.Machine
end

