-- ==== Sys2Proof/Laws/KeepsBlocks.lean ====
section
/-! SUPPORT. The shared operations, the failures, the Plate Controller, the Station Bus Controller and run control keep frame memory and the bounds. -/

namespace Sys2Proof.Machine

set_option linter.unusedTactic false
set_option linter.unreachableTactic false
set_option linter.unnecessarySeqFocus false

/-! ## Ops -/

theorem presentWalker_keeps {rs : List Request} {s₀ s : State} (h : Keeps s₀ s) :
    Keeps s₀ (presentWalker rs s) := by
  unfold presentWalker
  repeat' first
      | with_reducible assumption
      | ((with_reducible refine modPort_keeps ?_ ?_) <;> [exact fun _ => ⟨rfl, rfl⟩; skip])
      | dsimp only
      | split

theorem presentCache_keeps {rs : List Request} {s₀ s : State} (h : Keeps s₀ s) :
    Keeps s₀ (presentCache rs s) := by
  unfold presentCache
  repeat' first
      | with_reducible assumption
      | ((with_reducible refine modPort_keeps ?_ ?_) <;> [exact fun _ => ⟨rfl, rfl⟩; skip])
      | dsimp only
      | split

theorem presentWriter_keeps {rs : List Request} {s₀ s : State} (h : Keeps s₀ s) :
    Keeps s₀ (presentWriter rs s) := by
  unfold presentWriter
  repeat' first
      | with_reducible assumption
      | ((with_reducible refine modPort_keeps ?_ ?_) <;> [exact fun _ => ⟨rfl, rfl⟩; skip])
      | dsimp only
      | split

theorem presentControl_keeps {rs : List Request} {s₀ s : State} (h : Keeps s₀ s) :
    Keeps s₀ (presentControl rs s) := by
  unfold presentControl
  repeat' first
      | with_reducible assumption
      | ((with_reducible refine modPort_keeps ?_ ?_) <;> [exact fun _ => ⟨rfl, rfl⟩; skip])
      | dsimp only
      | split

theorem dropWalker_keeps {gone : Purpose → Bool} {s₀ s : State} (h : Keeps s₀ s) :
    Keeps s₀ (dropWalker gone s) := by
  unfold dropWalker
  repeat' first
      | with_reducible assumption
      | ((with_reducible refine modPort_keeps ?_ ?_) <;> [exact fun _ => ⟨rfl, rfl⟩; skip])
      | dsimp only
      | split

theorem dropCache_keeps {gone : Purpose → Bool} {s₀ s : State} (h : Keeps s₀ s) :
    Keeps s₀ (dropCache gone s) := by
  unfold dropCache
  repeat' first
      | with_reducible assumption
      | ((with_reducible refine modPort_keeps ?_ ?_) <;> [exact fun _ => ⟨rfl, rfl⟩; skip])
      | dsimp only
      | split

theorem dropWriter_keeps {gone : Purpose → Bool} {s₀ s : State} (h : Keeps s₀ s) :
    Keeps s₀ (dropWriter gone s) := by
  unfold dropWriter
  repeat' first
      | with_reducible assumption
      | ((with_reducible refine modPort_keeps ?_ ?_) <;> [exact fun _ => ⟨rfl, rfl⟩; skip])
      | dsimp only
      | split

theorem dropControl_keeps {gone : Purpose → Bool} {s₀ s : State} (h : Keeps s₀ s) :
    Keeps s₀ (dropControl gone s) := by
  unfold dropControl
  repeat' first
      | with_reducible assumption
      | ((with_reducible refine modPort_keeps ?_ ?_) <;> [exact fun _ => ⟨rfl, rfl⟩; skip])
      | dsimp only
      | split

theorem moveSlot_keeps {source : List SlotState} {target : SlotState} {n : Nat} {s₀ s : State} (h : Keeps s₀ s) :
    Keeps s₀ (moveSlot source target n s) := by
  unfold moveSlot
  repeat' first
      | with_reducible assumption
      | with_reducible apply modSlot_keeps
      | dsimp only
      | split

theorem moveSlots_keeps {source : List SlotState} {target : SlotState} {slots : List Nat} {s₀ s : State} (h : Keeps s₀ s) :
    Keeps s₀ (moveSlots source target slots s) := by
  unfold moveSlots
  repeat' first
      | with_reducible assumption
      | with_reducible apply moveSlot_keeps
      | with_reducible refine foldl_keeps (fun hf => ?_) ?_
      | dsimp only
      | split

theorem cancelTag_keeps {tag : Byte} {s₀ s : State} (h : Keeps s₀ s) :
    Keeps s₀ (cancelTag tag s) := by
  unfold cancelTag
  repeat' first
      | with_reducible assumption
      | ((with_reducible refine modIntake_keeps ?_ ?_) <;> [exact fun _ => ⟨rfl, rfl, rfl⟩; skip])
      | ((with_reducible refine fewerTriggers_keeps ?_ ?_) <;> [exact fun _ => ⟨rfl, List.length_filter_le _ _, rfl⟩; skip])
      | ((with_reducible refine fewerTriggers_keeps ?_ ?_) <;> [exact fun _ => ⟨rfl, by simp, rfl⟩; skip])
      | with_reducible apply modSlot_keeps
      | dsimp only
      | split

theorem cancelSlot_keeps {n : Nat} {s₀ s : State} (h : Keeps s₀ s) :
    Keeps s₀ (cancelSlot n s) := by
  unfold cancelSlot
  repeat' first
      | with_reducible assumption
      | with_reducible apply cancelTag_keeps
      | dsimp only
      | split

theorem releaseSlot_keeps {n : Nat} {s₀ s : State} (h : Keeps s₀ s) :
    Keeps s₀ (releaseSlot n s) := by
  unfold releaseSlot
  repeat' first
      | with_reducible assumption
      | with_reducible apply cancelSlot_keeps
      | with_reducible apply moveSlot_keeps
      | dsimp only
      | split

theorem releaseSlots_keeps {slots : List Nat} {s₀ s : State} (h : Keeps s₀ s) :
    Keeps s₀ (releaseSlots slots s) := by
  unfold releaseSlots
  repeat' first
      | with_reducible assumption
      | with_reducible apply releaseSlot_keeps
      | with_reducible refine foldl_keeps (fun hf => ?_) ?_
      | dsimp only
      | split

theorem sweepSlots_keeps {order : Nat} {s₀ s : State} (h : Keeps s₀ s) :
    Keeps s₀ (sweepSlots order s) := by
  unfold sweepSlots
  repeat' first
      | with_reducible assumption
      | with_reducible apply cancelSlot_keeps
      | with_reducible apply modSlot_keeps
      | with_reducible refine foldl_keeps (fun hf => ?_) ?_
      | dsimp only
      | split

theorem askReservation_keeps {count : Nat} {s₀ s : State} (h : Keeps s₀ s) :
    Keeps s₀ (askReservation count s) := by
  unfold askReservation
  repeat' first
      | with_reducible assumption
      | ((with_reducible refine modIntake_keeps ?_ ?_) <;> [exact fun _ => ⟨rfl, rfl, rfl⟩; skip])
      | ((with_reducible refine fewerTriggers_keeps ?_ ?_) <;> [exact fun _ => ⟨rfl, List.length_filter_le _ _, rfl⟩; skip])
      | ((with_reducible refine fewerTriggers_keeps ?_ ?_) <;> [exact fun _ => ⟨rfl, by simp, rfl⟩; skip])
      | dsimp only
      | split

theorem withdrawReservation_keeps {s₀ s : State} (h : Keeps s₀ s) :
    Keeps s₀ (withdrawReservation s) := by
  unfold withdrawReservation
  repeat' first
      | with_reducible assumption
      | ((with_reducible refine modIntake_keeps ?_ ?_) <;> [exact fun _ => ⟨rfl, rfl, rfl⟩; skip])
      | ((with_reducible refine fewerTriggers_keeps ?_ ?_) <;> [exact fun _ => ⟨rfl, List.length_filter_le _ _, rfl⟩; skip])
      | ((with_reducible refine fewerTriggers_keeps ?_ ?_) <;> [exact fun _ => ⟨rfl, by simp, rfl⟩; skip])
      | dsimp only
      | split

theorem askTrigger_keeps {place : Nat} {slot : Nat} {step : Nat} {s₀ s : State} (h : Keeps s₀ s) :
    Keeps s₀ (askTrigger place slot step s) := by
  unfold askTrigger
  repeat' first
      | with_reducible assumption
      | ((with_reducible refine modIntake_keeps ?_ ?_) <;> [exact fun _ => ⟨rfl, rfl, rfl⟩; skip])
      | ((with_reducible refine fewerTriggers_keeps ?_ ?_) <;> [exact fun _ => ⟨rfl, List.length_filter_le _ _, rfl⟩; skip])
      | ((with_reducible refine fewerTriggers_keeps ?_ ?_) <;> [exact fun _ => ⟨rfl, by simp, rfl⟩; skip])
      | dsimp only
      | split

theorem sendBack_keeps {packet : BackPacket} {s₀ s : State} (h : Keeps s₀ s) :
    Keeps s₀ (sendBack packet s) := by
  unfold sendBack
  repeat' first
      | with_reducible assumption
      | ((with_reducible refine modIntake_keeps ?_ ?_) <;> [exact fun _ => ⟨rfl, rfl, rfl⟩; skip])
      | ((with_reducible refine fewerTriggers_keeps ?_ ?_) <;> [exact fun _ => ⟨rfl, List.length_filter_le _ _, rfl⟩; skip])
      | ((with_reducible refine fewerTriggers_keeps ?_ ?_) <;> [exact fun _ => ⟨rfl, by simp, rfl⟩; skip])
      | dsimp only
      | split

/-! ## Flags -/

theorem presentInterrupt_keeps {s₀ s : State} (h : Keeps s₀ s) :
    Keeps s₀ (presentInterrupt s) := by
  unfold presentInterrupt
  repeat' first
      | with_reducible assumption
      | with_reducible apply presentControl_keeps
      | dsimp only
      | split

theorem setCause_keeps {cause : Cause} {s₀ s : State} (h : Keeps s₀ s) :
    Keeps s₀ (setCause cause s) := by
  unfold setCause
  repeat' first
      | with_reducible assumption
      | ((with_reducible refine modPort_keeps ?_ ?_) <;> [exact fun _ => ⟨rfl, rfl⟩; skip])
      | with_reducible apply presentInterrupt_keeps
      | dsimp only
      | split

theorem writeStatus_keeps {value : Word32} {s₀ s : State} (h : Keeps s₀ s) :
    Keeps s₀ (writeStatus value s) := by
  unfold writeStatus
  repeat' first
      | with_reducible assumption
      | ((with_reducible refine modBus_keeps ?_ ?_) <;> [exact fun _ => le_rfl; skip])
      | ((with_reducible refine modPort_keeps ?_ ?_) <;> [exact fun _ => ⟨rfl, rfl⟩; skip])
      | with_reducible apply presentInterrupt_keeps
      | dsimp only
      | split

theorem writeEnables_keeps {value : Word32} {s₀ s : State} (h : Keeps s₀ s) :
    Keeps s₀ (writeEnables value s) := by
  unfold writeEnables
  repeat' first
      | with_reducible assumption
      | ((with_reducible refine modPort_keeps ?_ ?_) <;> [exact fun _ => ⟨rfl, rfl⟩; skip])
      | with_reducible apply presentInterrupt_keeps
      | dsimp only
      | split

/-! ## CacheEntries -/

theorem toLruHead_keeps {n : Nat} {s₀ s : State} (h : Keeps s₀ s) :
    Keeps s₀ (toLruHead n s) := by
  unfold toLruHead
  repeat' first
      | with_reducible assumption
      | ((with_reducible refine modCache_keeps ?_ ?_) <;> [exact fun _ => rfl; skip])
      | dsimp only
      | split

theorem toLruTail_keeps {n : Nat} {s₀ s : State} (h : Keeps s₀ s) :
    Keeps s₀ (toLruTail n s) := by
  unfold toLruTail
  repeat' first
      | with_reducible assumption
      | ((with_reducible refine modCache_keeps ?_ ?_) <;> [exact fun _ => rfl; skip])
      | dsimp only
      | split

theorem refusePin_keeps {s₀ s : State} (h : Keeps s₀ s) :
    Keeps s₀ (refusePin s) := by
  unfold refusePin
  repeat' first
      | with_reducible assumption
      | ((with_reducible refine modCache_keeps ?_ ?_) <;> [exact fun _ => rfl; skip])
      | with_reducible apply presentCache_keeps
      | dsimp only
      | split

theorem unpinEntry_keeps {n : Nat} {s₀ s : State} (h : Keeps s₀ s) :
    Keeps s₀ (unpinEntry n s) := by
  unfold unpinEntry
  repeat' first
      | with_reducible assumption
      | ((with_reducible refine modEntry_keeps ?_ ?_) <;> [(intro e; (try split) <;> simp_all); skip])
      | with_reducible apply toLruHead_keeps
      | dsimp only
      | split

theorem applyPin_keeps {n : Nat} {request : Bool} {s₀ s : State} (h : Keeps s₀ s) :
    Keeps s₀ (applyPin n request s) := by
  unfold applyPin
  split
  · split
    · exact pinEntry_keeps (by assumption) h
    · exact refusePin_keeps h
  · exact unpinEntry_keeps h
  · exact h

theorem emptyEntry_keeps {n : Nat} {s₀ s : State} (h : Keeps s₀ s) :
    Keeps s₀ (emptyEntry n s) := by
  unfold emptyEntry
  repeat' first
      | with_reducible assumption
      | ((with_reducible refine modEntry_keeps ?_ ?_) <;> [(intro e; (try split) <;> simp_all); skip])
      | with_reducible apply toLruTail_keeps
      | dsimp only
      | split

theorem releaseHold_keeps {n : Nat} {s₀ s : State} (h : Keeps s₀ s) :
    Keeps s₀ (releaseHold n s) := by
  unfold releaseHold
  repeat' first
      | with_reducible assumption
      | ((with_reducible refine modEntry_keeps ?_ ?_) <;> [(intro e; (try split) <;> simp_all); skip])
      | dsimp only
      | split

theorem releaseHolds_keeps {holds : List CacheHold} {s₀ s : State} (h : Keeps s₀ s) :
    Keeps s₀ (releaseHolds holds s) := by
  unfold releaseHolds
  repeat' first
      | with_reducible assumption
      | with_reducible apply releaseHold_keeps
      | with_reducible refine foldl_keeps (fun hf => ?_) ?_
      | dsimp only
      | split

theorem beginLoad_keeps {n : Nat} {index : Nat} {e : DirectoryEntry} {s₀ s : State}
    (hn : Bounded s → CarriesOnly s index n) (h : Keeps s₀ s) : Keeps s₀ (beginLoad n index e s) := by
  unfold beginLoad
  exact applyPin_keeps (toLruHead_keeps (carryEntry_keeps (fun _ => ⟨id, rfl⟩)
    (fun b => hn ⟨b.slots, b.entries, b.reads, b.triggers, b.fifo, b.pins, b.once, b.queue⟩) (useOp_keeps h)))

/-! ## BusQueue -/

theorem queueInsert_length (r : BusRequest) (queue : List BusRequest) :
    (queueInsert r queue).length = queue.length + 1 := by
  induction queue with
  | nil => rfl
  | cons q rest ih =>
    unfold queueInsert
    split <;> simp [ih]

/-- A request joins a queue with a place for it (R157). -/
theorem joinQueue_keeps {requester : BusRequester} {priority : Nat} {target : Nat} {command : Byte} {data : List Byte}
    {s₀ s : State} (room : queueHasRoom s = true) (h : Keeps s₀ s) :
    Keeps s₀ (joinQueue requester priority target command data s) :=
  h.trans ⟨⟨rfl, rfl, rfl⟩, rfl, fun b =>
    ⟨b.slots, b.entries, b.reads, b.triggers, b.fifo, b.pins, b.once, by
      have : s.bus.queue.length < Config.busQueuePlaces := by simpa [queueHasRoom] using room
      simpa [joinQueue, modBus, queueInsert_length] using this⟩⟩

theorem askRateQuick_keeps {s₀ s : State} (h : Keeps s₀ s) :
    Keeps s₀ (askRateQuick s) := by
  unfold askRateQuick
  repeat' first
      | with_reducible assumption
      | ((with_reducible refine modBus_keeps ?_ ?_) <;> [exact fun _ => le_rfl; skip])
      | dsimp only
      | split

theorem putOnLine_keeps {item : LineItem} {s₀ s : State} (h : Keeps s₀ s) :
    Keeps s₀ (putOnLine item s) := by
  unfold putOnLine
  repeat' first
      | with_reducible assumption
      | ((with_reducible refine modBus_keeps ?_ ?_) <;> [exact fun _ => le_rfl; skip])
      | dsimp only
      | split

theorem lineIdle_keeps {s₀ s : State} (h : Keeps s₀ s) :
    Keeps s₀ (lineIdle s) := by
  unfold lineIdle
  repeat' first
      | with_reducible assumption
      | ((with_reducible refine modBus_keeps ?_ ?_) <;> [exact fun _ => le_rfl; skip])
      | dsimp only
      | split

/-! ## Failure -/

theorem stopCapture_keeps {s₀ s : State} (h : Keeps s₀ s) :
    Keeps s₀ (stopCapture s) := by
  unfold stopCapture
  repeat' first
      | with_reducible assumption
      | with_reducible apply dropWalker_keeps
      | ((with_reducible refine modIntake_keeps ?_ ?_) <;> [exact fun _ => ⟨rfl, rfl, rfl⟩; skip])
      | ((with_reducible refine fewerTriggers_keeps ?_ ?_) <;> [exact fun _ => ⟨rfl, List.length_filter_le _ _, rfl⟩; skip])
      | ((with_reducible refine fewerTriggers_keeps ?_ ?_) <;> [exact fun _ => ⟨rfl, by simp, rfl⟩; skip])
      | with_reducible apply modPlate_keeps
      | dsimp only
      | split

theorem enterShutdown_keeps {s₀ s : State} (h : Keeps s₀ s) :
    Keeps s₀ (enterShutdown s) := by
  unfold enterShutdown
  repeat' first
      | with_reducible assumption
      | with_reducible apply releaseSlots_keeps
      | with_reducible apply stopCapture_keeps
      | with_reducible apply withdrawReservation_keeps
      | dsimp only
      | split

theorem mergeDispose_keeps {s₀ s : State} (h : Keeps s₀ s) :
    Keeps s₀ (mergeDispose s) := by
  unfold mergeDispose
  repeat' first
      | with_reducible assumption
      | with_reducible apply modMerge_keeps
      | with_reducible apply modWriter_keeps
      | with_reducible apply moveSlots_keeps
      | dsimp only
      | split

theorem writerDiscard_keeps {s₀ s : State} (h : Keeps s₀ s) :
    Keeps s₀ (writerDiscard s) := by
  unfold writerDiscard
  repeat' first
      | with_reducible assumption
      | with_reducible apply dropWriter_keeps
      | with_reducible apply modWriter_keeps
      | dsimp only
      | split

theorem cacheEndWork_keeps {s₀ s : State} (h : Keeps s₀ s) :
    Keeps s₀ (cacheEndWork s) := by
  unfold cacheEndWork
  repeat' first
      | with_reducible assumption
      | with_reducible apply dropCache_keeps
      | with_reducible apply emptyEntry_keeps
      | with_reducible apply modActive_keeps
      | ((with_reducible refine modCache_keeps ?_ ?_) <;> [exact fun _ => rfl; skip])
      | with_reducible apply moveSlots_keeps
      | with_reducible refine foldl_keeps (fun hf => ?_) ?_
      | dsimp only
      | split

theorem passFailure_keeps {code : ResultCode} {kind : OrderKind} {s₀ s : State} (h : Keeps s₀ s) :
    Keeps s₀ (passFailure code kind s) := by
  unfold passFailure
  repeat' first
      | with_reducible assumption
      | with_reducible apply cacheEndWork_keeps
      | with_reducible apply enterShutdown_keeps
      | with_reducible apply mergeDispose_keeps
      | with_reducible apply writerDiscard_keeps
      | dsimp only
      | split

theorem failActive_keeps {code : ResultCode} {s₀ s : State} (h : Keeps s₀ s) :
    Keeps s₀ (failActive code s) := by
  unfold failActive
  repeat' first
      | with_reducible assumption
      | with_reducible apply modActive_keeps
      | with_reducible apply passFailure_keeps
      | dsimp only
      | split

theorem withdrawActive_keeps {s₀ s : State} (h : Keeps s₀ s) :
    Keeps s₀ (withdrawActive s) := by
  unfold withdrawActive
  repeat' first
      | with_reducible assumption
      | with_reducible apply cacheEndWork_keeps
      | with_reducible apply enterShutdown_keeps
      | with_reducible apply modActive_keeps
      | dsimp only
      | split

theorem presentFinal_keeps {address : Nat} {group : List Byte} {state : Nat} {fromTaken : Bool} {s₀ s : State} (h : Keeps s₀ s) :
    Keeps s₀ (presentFinal address group state fromTaken s) := by
  unfold presentFinal
  repeat' first
      | with_reducible assumption
      | with_reducible apply presentWalker_keeps
      | dsimp only
      | split

theorem stopLoad_keeps {owner : Nat} {s₀ s : State} (h : Keeps s₀ s) : Keeps s₀ (stopLoad owner s) :=
  modWalker_keeps h

theorem abandonSetup_keeps {o : TakenOrder} {s₀ s : State} (h : Keeps s₀ s) :
    Keeps s₀ (abandonSetup o s) := by
  unfold abandonSetup
  repeat' first
      | with_reducible assumption
      | with_reducible apply dropCache_keeps
      | with_reducible apply dropWalker_keeps
      | with_reducible apply modTaken_keeps
      | with_reducible apply stopLoad_keeps
      | dsimp only
      | split

theorem endTaken_keeps {code : ResultCode} {state : Nat} {s₀ s : State} (h : Keeps s₀ s) :
    Keeps s₀ (endTaken code state s) := by
  unfold endTaken
  repeat' first
      | with_reducible assumption
      | with_reducible apply abandonSetup_keeps
      | with_reducible apply modTaken_keeps
      | with_reducible apply presentFinal_keeps
      | dsimp only
      | split

theorem failTaken_keeps {code : ResultCode} {s₀ s : State} (h : Keeps s₀ s) :
    Keeps s₀ (failTaken code s) := by
  unfold failTaken
  repeat' first
      | with_reducible assumption
      | with_reducible apply endTaken_keeps
      | dsimp only
      | split

theorem failLoad_keeps {n : Nat} {s₀ s : State} (h : Keeps s₀ s) :
    Keeps s₀ (failLoad n s) := by
  unfold failLoad
  repeat' first
      | with_reducible assumption
      | with_reducible apply emptyEntry_keeps
      | with_reducible apply failActive_keeps
      | with_reducible apply failTaken_keeps
      | with_reducible apply modActive_keeps
      | with_reducible apply modTaken_keeps
      | dsimp only
      | split

/-! ## Stand -/

theorem standAfterStep_keeps {step : PlateStep} {outcome : BusOutcome} {code : Nat} {reply : List Byte} {s₀ s : State} (h : Keeps s₀ s) :
    Keeps s₀ (standAfterStep step outcome code reply s) := by
  unfold standAfterStep
  repeat' first
      | with_reducible assumption
      | with_reducible apply modPlate_keeps
      | dsimp only
      | split

theorem modMember_keeps {place : Nat} {f : Member → Member} {s₀ s : State} (h : Keeps s₀ s) :
    Keeps s₀ (modMember place f s) := by
  unfold modMember
  repeat' first
      | with_reducible assumption
      | with_reducible apply modPlate_keeps
      | dsimp only
      | split

theorem nextMember_keeps {s₀ s : State} (h : Keeps s₀ s) :
    Keeps s₀ (nextMember s) := by
  unfold nextMember
  repeat' first
      | with_reducible assumption
      | with_reducible apply modMember_keeps
      | with_reducible apply modPlate_keeps
      | dsimp only
      | split

theorem moveEnded_keeps {s₀ s : State} (h : Keeps s₀ s) :
    Keeps s₀ (moveEnded s) := by
  unfold moveEnded
  repeat' first
      | with_reducible assumption
      | with_reducible apply modPlate_keeps
      | with_reducible apply nextMember_keeps
      | dsimp only
      | split

theorem gaugePassed_keeps {s₀ s : State} (h : Keeps s₀ s) :
    Keeps s₀ (gaugePassed s) := by
  unfold gaugePassed
  repeat' first
      | with_reducible assumption
      | with_reducible apply modPlate_keeps
      | dsimp only
      | split

theorem stepPassed_keeps {step : PlateStep} {code : Nat} {s₀ s : State} (h : Keeps s₀ s) :
    Keeps s₀ (stepPassed step code s) := by
  unfold stepPassed
  repeat' first
      | with_reducible assumption
      | with_reducible apply gaugePassed_keeps
      | with_reducible apply modPlate_keeps
      | with_reducible apply moveEnded_keeps
      | dsimp only
      | split

theorem handSlot_keeps {n : Nat} {outcome : Nat} {code : Nat} {reply : List Byte} {s₀ s : State} (h : Keeps s₀ s) :
    Keeps s₀ (handSlot n outcome code reply s) := by
  unfold handSlot
  repeat' first
      | with_reducible assumption
      | with_reducible apply modActive_keeps
      | with_reducible apply modPlate_keeps
      | with_reducible apply presentWalker_keeps
      | dsimp only
      | split

theorem plateResult_keeps {outcome : BusOutcome} {code : Nat} {reply : List Byte} {s₀ s : State} (h : Keeps s₀ s) :
    Keeps s₀ (plateResult outcome code reply s) := by
  unfold plateResult
  repeat' first
      | with_reducible assumption
      | with_reducible apply failActive_keeps
      | with_reducible apply handSlot_keeps
      | with_reducible apply modPlate_keeps
      | with_reducible apply standAfterStep_keeps
      | with_reducible apply stepPassed_keeps
      | dsimp only
      | split

/-! ## Plate -/

theorem sendStep_keeps {step : PlateStep} {s₀ s : State} (h : Keeps s₀ s) :
    Keeps s₀ (sendStep step s) := by
  unfold sendStep
  repeat' first
      | with_reducible assumption
      | ((with_reducible refine joinQueue_keeps ?_ ?_) <;> [assumption; skip])
      | with_reducible apply modPlate_keeps
      | with_reducible apply plateResult_keeps
      | dsimp only
      | split

theorem askSample_keeps {use : SampleUse} {s₀ s : State} (h : Keeps s₀ s) :
    Keeps s₀ (askSample use s) := by
  unfold askSample
  repeat' first
      | with_reducible assumption
      | with_reducible apply modPlate_keeps
      | with_reducible apply presentWalker_keeps
      | with_reducible apply useOp_keeps
      | dsimp only
      | split

theorem reportCapture_keeps {interrupted : Option Nat} {s₀ s : State} (h : Keeps s₀ s) :
    Keeps s₀ (reportCapture interrupted s) := by
  unfold reportCapture
  repeat' first
      | with_reducible assumption
      | with_reducible apply modActive_keeps
      | with_reducible apply modWriter_keeps
      | dsimp only
      | split

theorem captureDone_keeps {s₀ s : State} (h : Keeps s₀ s) :
    Keeps s₀ (captureDone s) := by
  unfold captureDone
  repeat' first
      | with_reducible assumption
      | ((with_reducible refine modCache_keeps ?_ ?_) <;> [exact fun _ => rfl; skip])
      | with_reducible apply modPlate_keeps
      | with_reducible apply reportCapture_keeps
      | dsimp only
      | split

theorem reportShutdown_keeps {s₀ s : State} (h : Keeps s₀ s) :
    Keeps s₀ (reportShutdown s) := by
  unfold reportShutdown
  repeat' first
      | with_reducible assumption
      | with_reducible apply modPlate_keeps
      | with_reducible apply reportCapture_keeps
      | dsimp only
      | split

theorem reportService_keeps {s₀ s : State} (h : Keeps s₀ s) :
    Keeps s₀ (reportService s) := by
  unfold reportService
  repeat' first
      | with_reducible assumption
      | with_reducible apply modActive_keeps
      | with_reducible apply modPlate_keeps
      | with_reducible apply reportCapture_keeps
      | dsimp only
      | split

theorem dropStep_keeps {s₀ s : State} (h : Keeps s₀ s) :
    Keeps s₀ (dropStep s) := by
  unfold dropStep
  repeat' first
      | with_reducible assumption
      | with_reducible apply modPlate_keeps
      | dsimp only
      | split

theorem runLidCheck_keeps {s₀ s : State} (h : Keeps s₀ s) :
    Keeps s₀ (runLidCheck s) := by
  unfold runLidCheck
  repeat' first
      | with_reducible assumption
      | with_reducible apply dropStep_keeps
      | with_reducible apply failActive_keeps
      | with_reducible apply sendStep_keeps
      | dsimp only
      | split

theorem runTrigger_keeps {place : Nat} {s₀ s : State} (h : Keeps s₀ s) :
    Keeps s₀ (runTrigger place s) := by
  unfold runTrigger
  repeat' first
      | with_reducible assumption
      | with_reducible apply askTrigger_keeps
      | dsimp only
      | split

theorem startFrames_keeps {s₀ s : State} (h : Keeps s₀ s) :
    Keeps s₀ (startFrames s) := by
  unfold startFrames
  repeat' first
      | with_reducible assumption
      | with_reducible apply askSample_keeps
      | with_reducible apply modPlate_keeps
      | dsimp only
      | split

theorem runStep_keeps {step : PlateStep} {s₀ s : State} (h : Keeps s₀ s) :
    Keeps s₀ (runStep step s) := by
  unfold runStep
  repeat' first
      | with_reducible assumption
      | with_reducible apply captureDone_keeps
      | with_reducible apply dropStep_keeps
      | with_reducible apply modPlate_keeps
      | with_reducible apply runLidCheck_keeps
      | with_reducible apply runTrigger_keeps
      | with_reducible apply sendStep_keeps
      | with_reducible apply startFrames_keeps
      | dsimp only
      | split

theorem tileGranted_keeps {b : PlateBody} {slots : List Nat} {s₀ s : State} (h : Keeps s₀ s) :
    Keeps s₀ (tileGranted b slots s) := by
  unfold tileGranted
  repeat' first
      | with_reducible assumption
      | with_reducible apply modPlate_keeps
      | dsimp only
      | split

theorem referenceGranted_keeps {b : ReferenceBody} {low : Nat} {high : Nat} {frame : Nat} {s₀ s : State} (h : Keeps s₀ s) :
    Keeps s₀ (referenceGranted b low high frame s) := by
  unfold referenceGranted
  repeat' first
      | with_reducible assumption
      | ((with_reducible refine modCache_keeps ?_ ?_) <;> [exact fun _ => rfl; skip])
      | with_reducible apply modPlate_keeps
      | with_reducible apply moveSlots_keeps
      | dsimp only
      | split

theorem reservationGranted_keeps {slots : List Nat} {s₀ s : State} (h : Keeps s₀ s) :
    Keeps s₀ (reservationGranted slots s) := by
  unfold reservationGranted
  repeat' first
      | with_reducible assumption
      | with_reducible apply modPlate_keeps
      | with_reducible apply referenceGranted_keeps
      | with_reducible apply tileGranted_keeps
      | dsimp only
      | split

theorem triggerFrame_keeps {slot : Nat} {step : Nat} {s₀ s : State} (h : Keeps s₀ s) :
    Keeps s₀ (triggerFrame slot step s) := by
  unfold triggerFrame
  repeat' first
      | with_reducible assumption
      | with_reducible apply askTrigger_keeps
      | with_reducible apply modPlate_keeps
      | dsimp only
      | split

theorem frameAdvance_keeps {s₀ s t : State} (h : Keeps s₀ s)
    (e : frameAdvance s = some t) : Keeps s₀ t := by
  unfold frameAdvance at e
  (try dsimp only at e)
  repeat' split at e
  all_goals first
    | (cases e; done)
    | skip
  all_goals try (injection e with e; subst e)
  all_goals
    repeat' first
      | with_reducible assumption
      | with_reducible apply triggerFrame_keeps
      | dsimp only
      | split

theorem frameFull_keeps {b : ReferenceBody} {slot : Nat} {s₀ s : State} (h : Keeps s₀ s) :
    Keeps s₀ (frameFull b slot s) := by
  unfold frameFull
  repeat' first
      | with_reducible assumption
      | with_reducible apply askSample_keeps
      | ((with_reducible refine modCache_keeps ?_ ?_) <;> [exact fun _ => rfl; skip])
      | with_reducible apply modPlate_keeps
      | dsimp only
      | split

theorem frameDamaged_keeps {b : ReferenceBody} {slot : Nat} {s₀ s : State} (h : Keeps s₀ s) :
    Keeps s₀ (frameDamaged b slot s) := by
  unfold frameDamaged
  repeat' first
      | with_reducible assumption
      | with_reducible apply askTrigger_keeps
      | with_reducible apply failActive_keeps
      | with_reducible apply modMember_keeps
      | with_reducible apply modPlate_keeps
      | dsimp only
      | split

theorem latePacket_keeps {s₀ s : State} (h : Keeps s₀ s) :
    Keeps s₀ (latePacket s) := by
  unfold latePacket
  repeat' first
      | with_reducible assumption
      | with_reducible apply modPlate_keeps
      | dsimp only
      | split

theorem triggerTaken_keeps {place : Nat} {step : Nat} {tag : Byte} {s₀ s : State} (h : Keeps s₀ s) :
    Keeps s₀ (triggerTaken place step tag s) := by
  unfold triggerTaken
  repeat' first
      | with_reducible assumption
      | with_reducible apply modMember_keeps
      | dsimp only
      | split

theorem plateExposed_keeps {tag : Byte} {s₀ s : State} (h : Keeps s₀ s) :
    Keeps s₀ (plateExposed tag s) := by
  unfold plateExposed
  repeat' first
      | with_reducible assumption
      | with_reducible apply modMember_keeps
      | with_reducible apply nextMember_keeps
      | dsimp only
      | split

theorem memberFull_keeps {place : Nat} {s₀ s : State} (h : Keeps s₀ s) :
    Keeps s₀ (memberFull place s) := by
  unfold memberFull
  repeat' first
      | with_reducible assumption
      | with_reducible apply frameFull_keeps
      | with_reducible apply modMember_keeps
      | dsimp only
      | split

theorem memberDamaged_keeps {place : Nat} {s₀ s : State} (h : Keeps s₀ s) :
    Keeps s₀ (memberDamaged place s) := by
  unfold memberDamaged
  repeat' first
      | with_reducible assumption
      | with_reducible apply failActive_keeps
      | with_reducible apply frameDamaged_keeps
      | with_reducible apply modMember_keeps
      | dsimp only
      | split

theorem plateFrameEnd_keeps {tag : Byte} {full : Bool} {s₀ s : State} (h : Keeps s₀ s) :
    Keeps s₀ (plateFrameEnd tag full s) := by
  unfold plateFrameEnd
  repeat' first
      | with_reducible assumption
      | with_reducible apply memberDamaged_keeps
      | with_reducible apply memberFull_keeps
      | dsimp only
      | split

theorem retakeRound_keeps {s₀ s : State} (h : Keeps s₀ s) :
    Keeps s₀ (retakeRound s) := by
  unfold retakeRound
  repeat' first
      | with_reducible assumption
      | with_reducible apply modPlate_keeps
      | with_reducible apply nextMember_keeps
      | dsimp only
      | split

theorem handOff_keeps {b : PlateBody} {s₀ s : State} (h : Keeps s₀ s) :
    Keeps s₀ (handOff b s) := by
  unfold handOff
  repeat' first
      | with_reducible assumption
      | with_reducible apply modMerge_keeps
      | with_reducible apply modPlate_keeps
      | dsimp only
      | split

theorem collectAdvance_keeps {s₀ s t : State} (h : Keeps s₀ s)
    (e : collectAdvance s = some t) : Keeps s₀ t := by
  unfold collectAdvance at e
  (try dsimp only at e)
  repeat' split at e
  all_goals first
    | (cases e; done)
    | skip
  all_goals try (injection e with e; subst e)
  all_goals
    repeat' first
      | with_reducible assumption
      | with_reducible apply handOff_keeps
      | with_reducible apply retakeRound_keeps
      | dsimp only
      | split

theorem interlockAdvance_keeps {s₀ s t : State} (h : Keeps s₀ s)
    (e : interlockAdvance s = some t) : Keeps s₀ t := by
  unfold interlockAdvance at e
  (try dsimp only at e)
  repeat' split at e
  all_goals first
    | (cases e; done)
    | skip
  all_goals try (injection e with e; subst e)
  all_goals
    repeat' first
      | with_reducible assumption
      | with_reducible apply modPlate_keeps
      | dsimp only
      | split

theorem reservingAdvance_keeps {s₀ s t : State} (h : Keeps s₀ s)
    (e : reservingAdvance s = some t) : Keeps s₀ t := by
  unfold reservingAdvance at e
  (try dsimp only at e)
  repeat' split at e
  all_goals first
    | (cases e; done)
    | skip
  all_goals try (injection e with e; subst e)
  all_goals
    repeat' first
      | with_reducible assumption
      | with_reducible apply askReservation_keeps
      | (with_reducible exact frameAdvance_keeps (by with_reducible assumption) (by with_reducible assumption))
      | dsimp only
      | split

theorem shutdownAdvance_keeps {s₀ s t : State} (h : Keeps s₀ s)
    (e : shutdownAdvance s = some t) : Keeps s₀ t := by
  unfold shutdownAdvance at e
  (try dsimp only at e)
  repeat' split at e
  all_goals first
    | (cases e; done)
    | skip
  all_goals try (injection e with e; subst e)
  all_goals
    repeat' first
      | with_reducible assumption
      | with_reducible apply reportService_keeps
      | with_reducible apply reportShutdown_keeps
      | with_reducible apply sendStep_keeps
      | dsimp only
      | split

theorem slotSampled_keeps {s₀ s : State} (h : Keeps s₀ s) :
    Keeps s₀ (slotSampled s) := by
  unfold slotSampled
  repeat' first
      | with_reducible assumption
      | with_reducible apply handSlot_keeps
      | with_reducible apply modPlate_keeps
      | dsimp only
      | split

theorem sendingAdvance_keeps {s₀ s t : State} (h : Keeps s₀ s)
    (e : sendingAdvance s = some t) : Keeps s₀ t := by
  unfold sendingAdvance at e
  (try dsimp only at e)
  repeat' split at e
  all_goals first
    | (cases e; done)
    | skip
  all_goals try (injection e with e; subst e)
  all_goals
    repeat' first
      | with_reducible assumption
      | with_reducible apply askSample_keeps
      | with_reducible apply reportService_keeps
      | with_reducible apply runStep_keeps
      | dsimp only
      | split

theorem sampleGoOn_keeps {use : SampleUse} {s₀ s : State} (h : Keeps s₀ s) :
    Keeps s₀ (sampleGoOn use s) := by
  unfold sampleGoOn
  repeat' first
      | with_reducible assumption
      | with_reducible apply askReservation_keeps
      | with_reducible apply captureDone_keeps
      | with_reducible apply modPlate_keeps
      | with_reducible apply slotSampled_keeps
      | dsimp only
      | split

theorem sampleAnswered_keeps {op : Nat} {withdraw : Bool} {s₀ s : State} (h : Keeps s₀ s) :
    Keeps s₀ (sampleAnswered op withdraw s) := by
  unfold sampleAnswered
  repeat' first
      | with_reducible assumption
      | with_reducible apply modPlate_keeps
      | with_reducible apply sampleGoOn_keeps
      | with_reducible apply withdrawActive_keeps
      | dsimp only
      | split

theorem plateAdvance_keeps {s₀ s t : State} (h : Keeps s₀ s)
    (e : plateAdvance s = some t) : Keeps s₀ t := by
  unfold plateAdvance at e
  (try dsimp only at e)
  repeat' split at e
  all_goals first
    | (cases e; done)
    | skip
  all_goals try (injection e with e; subst e)
  all_goals
    repeat' first
      | with_reducible assumption
      | with_reducible apply askSample_keeps
      | (with_reducible exact collectAdvance_keeps (by with_reducible assumption) (by with_reducible assumption))
      | (with_reducible exact frameAdvance_keeps (by with_reducible assumption) (by with_reducible assumption))
      | (with_reducible exact interlockAdvance_keeps (by with_reducible assumption) (by with_reducible assumption))
      | (with_reducible exact reservingAdvance_keeps (by with_reducible assumption) (by with_reducible assumption))
      | with_reducible apply runStep_keeps
      | (with_reducible exact sendingAdvance_keeps (by with_reducible assumption) (by with_reducible assumption))
      | (with_reducible exact shutdownAdvance_keeps (by with_reducible assumption) (by with_reducible assumption))
      | dsimp only
      | split

theorem plateActivate_keeps {o : PlateOrder} {s₀ s : State} (h : Keeps s₀ s) :
    Keeps s₀ (plateActivate o s) := by
  unfold plateActivate
  repeat' first
      | with_reducible assumption
      | with_reducible apply askReservation_keeps
      | with_reducible apply modPlate_keeps
      | dsimp only
      | split

theorem plateIdle_keeps {s₀ s : State} (h : Keeps s₀ s) :
    Keeps s₀ (plateIdle s) := by
  unfold plateIdle
  repeat' first
      | with_reducible assumption
      | with_reducible apply modPlate_keeps
      | dsimp only
      | split

/-! ## BusControl -/

theorem handRate_keeps {s₀ s : State} (h : Keeps s₀ s) :
    Keeps s₀ (handRate s) := by
  unfold handRate
  repeat' first
      | with_reducible assumption
      | ((with_reducible refine modPort_keeps ?_ ?_) <;> [exact fun _ => ⟨rfl, rfl⟩; skip])
      | with_reducible apply presentControl_keeps
      | dsimp only
      | split

theorem busPartDone_keeps {s₀ s : State} (h : Keeps s₀ s) :
    Keeps s₀ (busPartDone s) := by
  unfold busPartDone
  repeat' first
      | with_reducible assumption
      | ((with_reducible refine modBus_keeps ?_ ?_) <;> [exact fun _ => le_rfl; skip])
      | ((with_reducible refine modPort_keeps ?_ ?_) <;> [exact fun _ => ⟨rfl, rfl⟩; skip])
      | with_reducible apply presentControl_keeps
      | dsimp only
      | split

theorem rollCallDone_keeps {s₀ s : State} (h : Keeps s₀ s) :
    Keeps s₀ (rollCallDone s) := by
  unfold rollCallDone
  repeat' first
      | with_reducible assumption
      | with_reducible apply busPartDone_keeps
      | ((with_reducible refine modBus_keeps ?_ ?_) <;> [exact fun _ => le_rfl; skip])
      | ((with_reducible refine modPort_keeps ?_ ?_) <;> [exact fun _ => ⟨rfl, rfl⟩; skip])
      | dsimp only
      | split

theorem pingResult_keeps {address : Nat} {outcome : BusOutcome} {code : Nat} {reply : List Byte} {s₀ s : State} (h : Keeps s₀ s) :
    Keeps s₀ (pingResult address outcome code reply s) := by
  unfold pingResult
  repeat' first
      | with_reducible assumption
      | ((with_reducible refine modBus_keeps ?_ ?_) <;> [exact fun _ => le_rfl; skip])
      | with_reducible apply rollCallDone_keeps
      | dsimp only
      | split

theorem sendPing_keeps {address : Nat} {s₀ s : State} (h : Keeps s₀ s) : Keeps s₀ (sendPing address s) := by
  unfold sendPing
  split
  · exact joinQueue_keeps ‹_› h
  · exact pingResult_keeps h

theorem beginRollCall_keeps {s₀ s : State} (h : Keeps s₀ s) : Keeps s₀ (beginRollCall s) :=
  foldl_keeps sendPing_keeps (modBus_keeps (fun _ => le_rfl) h)

theorem degrade_keeps {s₀ s : State} (h : Keeps s₀ s) :
    Keeps s₀ (degrade s) := by
  unfold degrade
  repeat' first
      | with_reducible assumption
      | ((with_reducible refine modBus_keeps ?_ ?_) <;> [exact fun _ => le_rfl; skip])
      | dsimp only
      | split

theorem endRateStep_keeps {s₀ s : State} (h : Keeps s₀ s) :
    Keeps s₀ (endRateStep s) := by
  unfold endRateStep
  repeat' first
      | with_reducible assumption
      | with_reducible apply busPartDone_keeps
      | with_reducible apply handRate_keeps
      | dsimp only
      | split

theorem rateSent_keeps {s₀ s : State} (h : Keeps s₀ s) :
    Keeps s₀ (rateSent s) := by
  unfold rateSent
  repeat' first
      | with_reducible assumption
      | with_reducible apply endRateStep_keeps
      | ((with_reducible refine modBus_keeps ?_ ?_) <;> [exact fun _ => le_rfl; skip])
      | dsimp only
      | split

theorem rateFailed_keeps {s₀ s : State} (h : Keeps s₀ s) :
    Keeps s₀ (rateFailed s) := by
  unfold rateFailed
  repeat' first
      | with_reducible assumption
      | with_reducible apply degrade_keeps
      | with_reducible apply endRateStep_keeps
      | dsimp only
      | split

theorem rateResult_keeps {outcome : BusOutcome} {s₀ s : State} (h : Keeps s₀ s) :
    Keeps s₀ (rateResult outcome s) := by
  unfold rateResult
  repeat' first
      | with_reducible assumption
      | with_reducible apply rateFailed_keeps
      | with_reducible apply rateSent_keeps
      | dsimp only
      | split

theorem decideTrim_keeps {s₀ s : State} (h : Keeps s₀ s) :
    Keeps s₀ (decideTrim s) := by
  unfold decideTrim
  repeat' first
      | with_reducible assumption
      | with_reducible apply askRateQuick_keeps
      | with_reducible apply busPartDone_keeps
      | with_reducible apply degrade_keeps
      | ((with_reducible refine modBus_keeps ?_ ?_) <;> [exact fun _ => le_rfl; skip])
      | dsimp only
      | split

theorem trimMeasured_keeps {delay : Nat} {s₀ s : State} (h : Keeps s₀ s) :
    Keeps s₀ (trimMeasured delay s) := by
  unfold trimMeasured
  repeat' first
      | with_reducible assumption
      | with_reducible apply decideTrim_keeps
      | ((with_reducible refine modBus_keeps ?_ ?_) <;> [exact fun _ => le_rfl; skip])
      | dsimp only
      | split

theorem reportResult_keeps {r : BusRequest} {outcome : BusOutcome} {code : Nat} {reply : List Byte} {s₀ s : State} (h : Keeps s₀ s) :
    Keeps s₀ (reportResult r outcome code reply s) := by
  unfold reportResult
  repeat' first
      | with_reducible assumption
      | with_reducible apply pingResult_keeps
      | with_reducible apply plateResult_keeps
      | with_reducible apply rateResult_keeps
      | dsimp only
      | split

theorem takeLine_keeps {requester : ClearRequester} {s₀ s : State} (h : Keeps s₀ s) :
    Keeps s₀ (takeLine requester s) :=
  putOnLine_keeps (modBus_keeps (fun _ => Nat.zero_le _) h)

theorem reportCleared_keeps {requests : List BusRequest} {s₀ s : State} (h : Keeps s₀ s) :
    Keeps s₀ (reportCleared requests s) := by
  unfold reportCleared
  repeat' first
      | with_reducible assumption
      | with_reducible apply reportResult_keeps
      | with_reducible refine foldl_keeps (fun hf => ?_) ?_
      | dsimp only
      | split

theorem beginClear_keeps {requester : ClearRequester} {s₀ s : State} (h : Keeps s₀ s) :
    Keeps s₀ (beginClear requester s) := by
  unfold beginClear
  repeat' first
      | with_reducible assumption
      | with_reducible apply handRate_keeps
      | ((with_reducible refine modBus_keeps ?_ ?_) <;> [exact fun _ => le_rfl; skip])
      | with_reducible apply reportCleared_keeps
      | with_reducible apply takeLine_keeps
      | dsimp only
      | split

theorem clearAbandoned_keeps {s₀ s : State} (h : Keeps s₀ s) : Keeps s₀ (clearAbandoned s) :=
  reportCleared_keeps (modBus_keeps (fun _ => List.length_filter_le _ _) (beginClear_keeps h))

theorem plateCleared_keeps {own : Bool} {s₀ s : State} (h : Keeps s₀ s) :
    Keeps s₀ (plateCleared own s) := by
  unfold plateCleared
  repeat' first
      | with_reducible assumption
      | with_reducible apply failActive_keeps
      | with_reducible apply modPlate_keeps
      | dsimp only
      | split

theorem releaseLine_keeps {s₀ s : State} (h : Keeps s₀ s) :
    Keeps s₀ (releaseLine s) := by
  unfold releaseLine
  repeat' first
      | with_reducible assumption
      | with_reducible apply degrade_keeps
      | with_reducible apply lineIdle_keeps
      | dsimp only
      | split

theorem startAfterPulse_keeps {s₀ s : State} (h : Keeps s₀ s) :
    Keeps s₀ (startAfterPulse s) := by
  unfold startAfterPulse
  repeat' first
      | with_reducible assumption
      | with_reducible apply beginRollCall_keeps
      | ((with_reducible refine modBus_keeps ?_ ?_) <;> [exact fun _ => le_rfl; skip])
      | dsimp only
      | split

theorem rateAfterPulse_keeps {s₀ s : State} (h : Keeps s₀ s) :
    Keeps s₀ (rateAfterPulse s) := by
  unfold rateAfterPulse
  repeat' first
      | with_reducible assumption
      | with_reducible apply askRateQuick_keeps
      | dsimp only
      | split

theorem settleAborting_keeps {s₀ s : State} (h : Keeps s₀ s) :
    Keeps s₀ (settleAborting s) := by
  unfold settleAborting
  repeat' first
      | with_reducible assumption
      | ((with_reducible refine modPort_keeps ?_ ?_) <;> [exact fun _ => ⟨rfl, rfl⟩; skip])
      | with_reducible apply setCause_keeps
      | dsimp only
      | split

theorem endClear_keeps {s₀ s : State} (h : Keeps s₀ s) :
    Keeps s₀ (endClear s) := by
  unfold endClear
  repeat' first
      | with_reducible assumption
      | with_reducible apply handRate_keeps
      | ((with_reducible refine modBus_keeps ?_ ?_) <;> [exact fun _ => le_rfl; skip])
      | with_reducible apply plateCleared_keeps
      | with_reducible apply rateAfterPulse_keeps
      | with_reducible apply releaseLine_keeps
      | with_reducible apply settleAborting_keeps
      | with_reducible apply startAfterPulse_keeps
      | dsimp only
      | split

theorem fallbackAdvance_keeps {s₀ s t : State} (h : Keeps s₀ s)
    (e : fallbackAdvance s = some t) : Keeps s₀ t := by
  unfold fallbackAdvance at e
  (try dsimp only at e)
  repeat' split at e
  all_goals first
    | (cases e; done)
    | skip
  all_goals try (injection e with e; subst e)
  all_goals
    repeat' first
      | with_reducible assumption
      | with_reducible apply beginClear_keeps
      | dsimp only
      | split

theorem attemptEnds_keeps {number : Nat} {outcome : BusOutcome} {code : Nat} {reply : List Byte} {s₀ s : State} (h : Keeps s₀ s) :
    Keeps s₀ (attemptEnds number outcome code reply s) := by
  unfold attemptEnds
  repeat' first
      | with_reducible assumption
      | with_reducible apply beginClear_keeps
      | ((with_reducible refine modBus_keeps ?_ ?_) <;> [(first | exact fun _ => le_rfl | exact fun _ => List.length_filter_le _ _ | exact fun _ => (by simp [modRequest])); skip])
      | with_reducible apply reportResult_keeps
      | dsimp only
      | split

theorem beginAttempt_keeps {r : BusRequest} {s₀ s : State} (h : Keeps s₀ s) :
    Keeps s₀ (beginAttempt r s) := by
  unfold beginAttempt
  repeat' first
      | with_reducible assumption
      | ((with_reducible refine modBus_keeps ?_ ?_) <;> [exact fun _ => le_rfl; skip])
      | with_reducible apply putOnLine_keeps
      | dsimp only
      | split

theorem busAdvance_keeps {s₀ s t : State} (h : Keeps s₀ s)
    (e : busAdvance s = some t) : Keeps s₀ t := by
  unfold busAdvance at e
  (try dsimp only at e)
  repeat' split at e
  all_goals first
    | (cases e; done)
    | skip
  all_goals try (injection e with e; subst e)
  all_goals
    repeat' first
      | with_reducible assumption
      | with_reducible apply beginAttempt_keeps
      | ((with_reducible refine modBus_keeps ?_ ?_) <;> [exact fun _ => le_rfl; skip])
      | with_reducible apply putOnLine_keeps
      | dsimp only
      | split

theorem wellReceived_keeps {s₀ s : State} (h : Keeps s₀ s) :
    Keeps s₀ (wellReceived s) := by
  unfold wellReceived
  repeat' first
      | with_reducible assumption
      | ((with_reducible refine modBus_keeps ?_ ?_) <;> [exact fun _ => le_rfl; skip])
      | dsimp only
      | split

theorem replyOnLine_keeps {code : Nat} {s₀ s : State} (h : Keeps s₀ s) :
    Keeps s₀ (replyOnLine code s) := by
  unfold replyOnLine
  repeat' first
      | with_reducible assumption
      | ((with_reducible refine modBus_keeps ?_ ?_) <;> [exact fun _ => le_rfl; skip])
      | with_reducible apply putOnLine_keeps
      | dsimp only
      | split

theorem acceptNotice_keeps {s₀ s : State} (h : Keeps s₀ s) :
    Keeps s₀ (acceptNotice s) := by
  unfold acceptNotice
  repeat' first
      | with_reducible assumption
      | with_reducible apply replyOnLine_keeps
      | with_reducible apply wellReceived_keeps
      | dsimp only
      | split

theorem recordNotice_keeps {module : Nat} {notice : Byte} {data : List Byte} {s₀ s : State} (h : Keeps s₀ s) :
    Keeps s₀ (recordNotice module notice data s) := by
  unfold recordNotice
  repeat' first
      | with_reducible assumption
      | ((with_reducible refine modPort_keeps ?_ ?_) <;> [exact fun _ => ⟨rfl, rfl⟩; skip])
      | with_reducible apply presentControl_keeps
      | dsimp only
      | split

/-! ## RunControl -/

theorem setRunState_keeps {r : RunState} {s₀ s : State} (h : Keeps s₀ s) :
    Keeps s₀ (setRunState r s) := by
  unfold setRunState
  repeat' first
      | with_reducible assumption
      | ((with_reducible refine modPort_keeps ?_ ?_) <;> [exact fun _ => ⟨rfl, rfl⟩; skip])
      | dsimp only
      | split

theorem walkOff_keeps {s₀ s : State} (h : Keeps s₀ s) :
    Keeps s₀ (walkOff s) := by
  unfold walkOff
  repeat' first
      | with_reducible assumption
      | with_reducible apply dropWalker_keeps
      | with_reducible apply modWalker_keeps
      | dsimp only
      | split

theorem failHeld_keeps {code : ResultCode} {s₀ s : State} (h : Keeps s₀ s) :
    Keeps s₀ (failHeld code s) := by
  unfold failHeld
  repeat' first
      | with_reducible assumption
      | with_reducible apply failActive_keeps
      | with_reducible apply failTaken_keeps
      | dsimp only
      | split

theorem abandonStart_keeps {s₀ s : State} (h : Keeps s₀ s) :
    Keeps s₀ (abandonStart s) := by
  unfold abandonStart
  repeat' first
      | with_reducible assumption
      | with_reducible apply dropControl_keeps
      | ((with_reducible refine modBus_keeps ?_ ?_) <;> [exact fun _ => le_rfl; skip])
      | ((with_reducible refine modPort_keeps ?_ ?_) <;> [exact fun _ => ⟨rfl, rfl⟩; skip])
      | dsimp only
      | split

theorem enterFaulted_keeps {reason : FaultReason} {s₀ s : State} (h : Keeps s₀ s) :
    Keeps s₀ (enterFaulted reason s) := by
  unfold enterFaulted
  repeat' first
      | with_reducible assumption
      | with_reducible apply abandonStart_keeps
      | with_reducible apply clearAbandoned_keeps
      | with_reducible apply failHeld_keeps
      | ((with_reducible refine modPort_keeps ?_ ?_) <;> [exact fun _ => ⟨rfl, rfl⟩; skip])
      | with_reducible apply setCause_keeps
      | with_reducible apply walkOff_keeps
      | dsimp only
      | split

theorem failAnchor_keeps {reason : FaultReason} {s₀ s : State} (h : Keeps s₀ s) :
    Keeps s₀ (failAnchor reason s) := by
  unfold failAnchor
  repeat' first
      | with_reducible assumption
      | with_reducible apply enterFaulted_keeps
      | ((with_reducible refine modPort_keeps ?_ ?_) <;> [exact fun _ => ⟨rfl, rfl⟩; skip])
      | dsimp only
      | split

theorem refuse_keeps {s₀ s : State} (h : Keeps s₀ s) :
    Keeps s₀ (refuse s) := by
  unfold refuse
  repeat' first
      | with_reducible assumption
      | with_reducible apply setCause_keeps
      | dsimp only
      | split

theorem readAnchor_keeps {s₀ s : State} (h : Keeps s₀ s) :
    Keeps s₀ (readAnchor s) := by
  unfold readAnchor
  repeat' first
      | with_reducible assumption
      | with_reducible apply failAnchor_keeps
      | ((with_reducible refine modPort_keeps ?_ ?_) <;> [exact fun _ => ⟨rfl, rfl⟩; skip])
      | with_reducible apply presentControl_keeps
      | with_reducible apply useOp_keeps
      | dsimp only
      | split

theorem beginStart_keeps {s₀ s : State} (h : Keeps s₀ s) :
    Keeps s₀ (beginStart s) := by
  unfold beginStart
  repeat' first
      | with_reducible assumption
      | ((with_reducible refine modPort_keeps ?_ ?_) <;> [exact fun _ => ⟨rfl, rfl⟩; skip])
      | with_reducible apply readAnchor_keeps
      | dsimp only
      | split

theorem writeStart_keeps {s₀ s : State} (h : Keeps s₀ s) :
    Keeps s₀ (writeStart s) := by
  unfold writeStart
  repeat' first
      | with_reducible assumption
      | with_reducible apply beginStart_keeps
      | with_reducible apply refuse_keeps
      | dsimp only
      | split

theorem writeStop_keeps {s₀ s : State} (h : Keeps s₀ s) :
    Keeps s₀ (writeStop s) := by
  unfold writeStop
  repeat' first
      | with_reducible assumption
      | with_reducible apply refuse_keeps
      | with_reducible apply setRunState_keeps
      | with_reducible apply walkOff_keeps
      | dsimp only
      | split

theorem abortStarting_keeps {s₀ s : State} (h : Keeps s₀ s) :
    Keeps s₀ (abortStarting s) := by
  unfold abortStarting
  repeat' first
      | with_reducible assumption
      | ((with_reducible refine modBus_keeps ?_ ?_) <;> [exact fun _ => le_rfl; skip])
      | ((with_reducible refine modPort_keeps ?_ ?_) <;> [exact fun _ => ⟨rfl, rfl⟩; skip])
      | with_reducible apply setRunState_keeps
      | dsimp only
      | split

theorem abortOrders_keeps {s₀ s : State} (h : Keeps s₀ s) :
    Keeps s₀ (abortOrders s) := by
  unfold abortOrders
  repeat' first
      | with_reducible assumption
      | with_reducible apply failHeld_keeps
      | with_reducible apply setRunState_keeps
      | with_reducible apply walkOff_keeps
      | dsimp only
      | split

theorem writeAbort_keeps {s₀ s : State} (h : Keeps s₀ s) :
    Keeps s₀ (writeAbort s) := by
  unfold writeAbort
  repeat' first
      | with_reducible assumption
      | with_reducible apply abortOrders_keeps
      | with_reducible apply abortStarting_keeps
      | with_reducible apply refuse_keeps
      | dsimp only
      | split

theorem softReset_keeps {s₀ s : State} (h : Keeps s₀ s) : Keeps s₀ (softReset s) :=
  h.trans ⟨⟨rfl, rfl, rfl⟩, rfl, fun _ => ⟨rfl, rfl, Nat.zero_le _, Nat.zero_le _, Nat.zero_le _, Nat.zero_le _,
    carriedOnce_reset, Nat.zero_le _⟩⟩

theorem writeAnchor_keeps {high : Bool} {value : Word32} {s₀ s : State} (h : Keeps s₀ s) :
    Keeps s₀ (writeAnchor high value s) := by
  unfold writeAnchor
  repeat' first
      | with_reducible assumption
      | ((with_reducible refine modPort_keeps ?_ ?_) <;> [exact fun _ => ⟨rfl, rfl⟩; skip])
      | with_reducible apply refuse_keeps
      | dsimp only
      | split

theorem writeControl_keeps {value : Word32} {s₀ s : State} (h : Keeps s₀ s) : Keeps s₀ (writeControl value s) := by
  unfold writeControl
  repeat' first
      | assumption
      | apply softReset_keeps
      | apply refuse_keeps
      | apply writeStart_keeps
      | apply writeStop_keeps
      | apply writeAbort_keeps
      | split

theorem sendResume_keeps {s₀ s : State} (h : Keeps s₀ s) :
    Keeps s₀ (sendResume s) := by
  unfold sendResume
  repeat' first
      | with_reducible assumption
      | ((with_reducible refine modIntake_keeps ?_ ?_) <;> [exact fun _ => ⟨rfl, rfl, rfl⟩; skip])
      | ((with_reducible refine fewerTriggers_keeps ?_ ?_) <;> [exact fun _ => ⟨rfl, List.length_filter_le _ _, rfl⟩; skip])
      | ((with_reducible refine fewerTriggers_keeps ?_ ?_) <;> [exact fun _ => ⟨rfl, by simp, rfl⟩; skip])
      | with_reducible apply sendBack_keeps
      | dsimp only
      | split

theorem sendPause_keeps {s₀ s : State} (h : Keeps s₀ s) :
    Keeps s₀ (sendPause s) := by
  unfold sendPause
  repeat' first
      | with_reducible assumption
      | ((with_reducible refine modIntake_keeps ?_ ?_) <;> [exact fun _ => ⟨rfl, rfl, rfl⟩; skip])
      | ((with_reducible refine fewerTriggers_keeps ?_ ?_) <;> [exact fun _ => ⟨rfl, List.length_filter_le _ _, rfl⟩; skip])
      | ((with_reducible refine fewerTriggers_keeps ?_ ?_) <;> [exact fun _ => ⟨rfl, by simp, rfl⟩; skip])
      | with_reducible apply sendBack_keeps
      | dsimp only
      | split

theorem setPlateChange_keeps {s₀ s : State} (h : Keeps s₀ s) :
    Keeps s₀ (setPlateChange s) := by
  unfold setPlateChange
  repeat' first
      | with_reducible assumption
      | with_reducible apply modPlate_keeps
      | dsimp only
      | split

theorem acceptFresh_keeps {s₀ s : State} (h : Keeps s₀ s) :
    Keeps s₀ (acceptFresh s) := by
  unfold acceptFresh
  repeat' first
      | with_reducible assumption
      | with_reducible apply beginClear_keeps
      | ((with_reducible refine modBus_keeps ?_ ?_) <;> [exact fun _ => le_rfl; skip])
      | ((with_reducible refine modPort_keeps ?_ ?_) <;> [exact fun _ => ⟨rfl, rfl⟩; skip])
      | with_reducible apply presentControl_keeps
      | with_reducible apply sendResume_keeps
      | with_reducible apply setPlateChange_keeps
      | dsimp only
      | split

theorem checkTakeIndex_keeps {s₀ s : State} (h : Keeps s₀ s) :
    Keeps s₀ (checkTakeIndex s) := by
  unfold checkTakeIndex
  repeat' first
      | with_reducible assumption
      | with_reducible apply modWriter_keeps
      | with_reducible apply presentWriter_keeps
      | dsimp only
      | split

theorem acceptAgain_keeps {s₀ s : State} (h : Keeps s₀ s) :
    Keeps s₀ (acceptAgain s) := by
  unfold acceptAgain
  repeat' first
      | with_reducible assumption
      | with_reducible apply beginRollCall_keeps
      | with_reducible apply checkTakeIndex_keeps
      | ((with_reducible refine modPort_keeps ?_ ?_) <;> [exact fun _ => ⟨rfl, rfl⟩; skip])
      | with_reducible apply setPlateChange_keeps
      | dsimp only
      | split

theorem acceptAnchor_keeps {settings : Settings} {s₀ s : State} (h : Keeps s₀ s) :
    Keeps s₀ (acceptAnchor settings s) := by
  unfold acceptAnchor
  repeat' first
      | with_reducible assumption
      | with_reducible apply acceptAgain_keeps
      | with_reducible apply acceptFresh_keeps
      | ((with_reducible refine modPort_keeps ?_ ?_) <;> [exact fun _ => ⟨rfl, rfl⟩; skip])
      | dsimp only
      | split

theorem anchorRead_keeps {bytes : List Byte} {s₀ s : State} (h : Keeps s₀ s) :
    Keeps s₀ (anchorRead bytes s) := by
  unfold anchorRead
  repeat' first
      | with_reducible assumption
      | with_reducible apply acceptAnchor_keeps
      | with_reducible apply failAnchor_keeps
      | dsimp only
      | split

theorem anchorPieceRead_keeps {op : Nat} {offset : Nat} {data : List Byte} {s₀ s : State} (h : Keeps s₀ s) :
    Keeps s₀ (anchorPieceRead op offset data s) := by
  unfold anchorPieceRead
  repeat' first
      | with_reducible assumption
      | with_reducible apply anchorRead_keeps
      | ((with_reducible refine modPort_keeps ?_ ?_) <;> [exact fun _ => ⟨rfl, rfl⟩; skip])
      | dsimp only
      | split

theorem anchorPieceFailed_keeps {op : Nat} {s₀ s : State} (h : Keeps s₀ s) :
    Keeps s₀ (anchorPieceFailed op s) := by
  unfold anchorPieceFailed
  repeat' first
      | with_reducible assumption
      | with_reducible apply dropControl_keeps
      | with_reducible apply failAnchor_keeps
      | ((with_reducible refine modPort_keeps ?_ ?_) <;> [exact fun _ => ⟨rfl, rfl⟩; skip])
      | dsimp only
      | split

theorem zeroAccepted_keeps {s₀ s : State} (h : Keeps s₀ s) :
    Keeps s₀ (zeroAccepted s) := by
  unfold zeroAccepted
  repeat' first
      | with_reducible assumption
      | ((with_reducible refine modPort_keeps ?_ ?_) <;> [exact fun _ => ⟨rfl, rfl⟩; skip])
      | dsimp only
      | split

theorem startReported_keeps {s₀ s : State} (h : Keeps s₀ s) :
    Keeps s₀ (startReported s) := by
  unfold startReported
  repeat' first
      | with_reducible assumption
      | ((with_reducible refine modPort_keeps ?_ ?_) <;> [exact fun _ => ⟨rfl, rfl⟩; skip])
      | with_reducible apply modWalker_keeps
      | with_reducible apply setCause_keeps
      | dsimp only
      | split

theorem controlAdvance_keeps {s₀ s t : State} (h : Keeps s₀ s)
    (e : controlAdvance s = some t) : Keeps s₀ t := by
  unfold controlAdvance at e
  (try dsimp only at e)
  repeat' split at e
  all_goals first
    | (cases e; done)
    | skip
  all_goals try (injection e with e; subst e)
  all_goals
    repeat' first
      | with_reducible assumption
      | with_reducible apply clearAbandoned_keeps
      | ((with_reducible refine modPort_keeps ?_ ?_) <;> [exact fun _ => ⟨rfl, rfl⟩; skip])
      | with_reducible apply setCause_keeps
      | with_reducible apply setRunState_keeps
      | dsimp only
      | split

end Sys2Proof.Machine
end

