-- ==== Sys2Proof/Laws/KeepsData.lean ====
section
/-! SUPPORT. Frame Intake, the Reference Cache, the Merge Engine and the Tile Writer keep frame memory and the bounds. -/

namespace Sys2Proof.Machine

set_option linter.unusedTactic false
set_option linter.unreachableTactic false
set_option linter.unnecessarySeqFocus false

/-! ## IntakeOps -/

theorem resumeIfLow_keeps {s₀ s : State} (h : Keeps s₀ s) :
    Keeps s₀ (resumeIfLow s) := by
  unfold resumeIfLow
  repeat' first
      | with_reducible assumption
      | with_reducible apply sendResume_keeps
      | dsimp only
      | split

theorem flowCheck_keeps {rose : Bool} {s₀ s : State} (h : Keeps s₀ s) :
    Keeps s₀ (flowCheck rose s) := by
  unfold flowCheck
  repeat' first
      | with_reducible assumption
      | with_reducible apply sendPause_keeps
      | with_reducible apply sendResume_keeps
      | dsimp only
      | split

theorem ackPause_keeps {s₀ s : State} (h : Keeps s₀ s) :
    Keeps s₀ (ackPause s) := by
  unfold ackPause
  repeat' first
      | with_reducible assumption
      | ((with_reducible refine modIntake_keeps ?_ ?_) <;> [exact fun _ => ⟨rfl, rfl, rfl⟩; skip])
      | ((with_reducible refine fewerTriggers_keeps ?_ ?_) <;> [exact fun _ => ⟨rfl, List.length_filter_le _ _, rfl⟩; skip])
      | ((with_reducible refine fewerTriggers_keeps ?_ ?_) <;> [exact fun _ => ⟨rfl, by simp, rfl⟩; skip])
      | with_reducible apply resumeIfLow_keeps
      | dsimp only
      | split

theorem ackResume_keeps {s₀ s : State} (h : Keeps s₀ s) :
    Keeps s₀ (ackResume s) := by
  unfold ackResume
  repeat' first
      | with_reducible assumption
      | ((with_reducible refine modIntake_keeps ?_ ?_) <;> [exact fun _ => ⟨rfl, rfl, rfl⟩; skip])
      | ((with_reducible refine fewerTriggers_keeps ?_ ?_) <;> [exact fun _ => ⟨rfl, List.length_filter_le _ _, rfl⟩; skip])
      | ((with_reducible refine fewerTriggers_keeps ?_ ?_) <;> [exact fun _ => ⟨rfl, by simp, rfl⟩; skip])
      | with_reducible apply sendPause_keeps
      | dsimp only
      | split

theorem stallLink_keeps {s₀ s : State} (h : Keeps s₀ s) :
    Keeps s₀ (stallLink s) := by
  unfold stallLink
  repeat' first
      | with_reducible assumption
      | with_reducible apply failActive_keeps
      | ((with_reducible refine modIntake_keeps ?_ ?_) <;> [exact fun _ => ⟨rfl, rfl, rfl⟩; skip])
      | ((with_reducible refine fewerTriggers_keeps ?_ ?_) <;> [exact fun _ => ⟨rfl, List.length_filter_le _ _, rfl⟩; skip])
      | ((with_reducible refine fewerTriggers_keeps ?_ ?_) <;> [exact fun _ => ⟨rfl, by simp, rfl⟩; skip])
      | dsimp only
      | split

theorem ackExpired_keeps {s₀ s : State} (h : Keeps s₀ s) :
    Keeps s₀ (ackExpired s) := by
  unfold ackExpired
  repeat' first
      | with_reducible assumption
      | ((with_reducible refine modIntake_keeps ?_ ?_) <;> [exact fun _ => ⟨rfl, rfl, rfl⟩; skip])
      | ((with_reducible refine fewerTriggers_keeps ?_ ?_) <;> [exact fun _ => ⟨rfl, List.length_filter_le _ _, rfl⟩; skip])
      | ((with_reducible refine fewerTriggers_keeps ?_ ?_) <;> [exact fun _ => ⟨rfl, by simp, rfl⟩; skip])
      | with_reducible apply sendBack_keeps
      | with_reducible apply stallLink_keeps
      | dsimp only
      | split

theorem modTrigger_keeps {tag : Byte} {f : Trigger → Trigger} {s₀ s : State} (h : Keeps s₀ s) :
    Keeps s₀ (modTrigger tag f s) := by
  unfold modTrigger
  repeat' first
      | with_reducible assumption
      | ((with_reducible refine modIntake_keeps ?_ ?_) <;> [exact fun _ => ⟨rfl, rfl, rfl⟩; skip])
      | ((with_reducible refine fewerTriggers_keeps ?_ ?_) <;> [exact fun _ => ⟨rfl, List.length_filter_le _ _, rfl⟩; skip])
      | ((with_reducible refine fewerTriggers_keeps ?_ ?_) <;> [exact fun _ => ⟨rfl, by simp, rfl⟩; skip])
      | dsimp only
      | split

theorem reportExposed_keeps {tag : Byte} {s₀ s : State} (h : Keeps s₀ s) :
    Keeps s₀ (reportExposed tag s) := by
  unfold reportExposed
  repeat' first
      | with_reducible assumption
      | with_reducible apply modTrigger_keeps
      | with_reducible apply plateExposed_keeps
      | dsimp only
      | split

theorem damageTrigger_keeps {tag : Byte} {s₀ s : State} (h : Keeps s₀ s) :
    Keeps s₀ (damageTrigger tag s) := by
  unfold damageTrigger
  repeat' first
      | with_reducible assumption
      | with_reducible apply modTrigger_keeps
      | dsimp only
      | split

theorem lostExposed_keeps {e : Trigger} {s₀ s : State} (h : Keeps s₀ s) :
    Keeps s₀ (lostExposed e s) := by
  unfold lostExposed
  repeat' first
      | with_reducible assumption
      | with_reducible apply damageTrigger_keeps
      | with_reducible apply reportExposed_keeps
      | dsimp only
      | split

theorem takeTrigger_keeps {r : TriggerRequest} {s₀ s : State}
    (ht : s.intake.triggers.length < Config.triggerPlaces) (h : Keeps s₀ s) : Keeps s₀ (takeTrigger r s) := by
  unfold takeTrigger
  dsimp only
  apply triggerTaken_keeps
  apply sendBack_keeps
  apply modSlot_keeps
  exact listTrigger_keeps (fun _ => ⟨rfl, by simp, rfl⟩) ht h

theorem placeFifoRow_keeps {tag : Byte} {row : Nat} {samples : List Byte} {s₀ s : State} (h : Keeps s₀ s) :
    Keeps s₀ (placeFifoRow tag row samples s) := by
  unfold placeFifoRow
  split
  case isTrue hl =>
    apply flowCheck_keeps
    apply modTrigger_keeps
    refine fifo_keeps (fun _ => ⟨rfl, rfl⟩) (fun _ => ?_) h
    simp only [fifoLevel] at hl
    simp only [fifoLevel, modIntake_intake, List.filter_append, List.length_append, List.filter_cons, isRow, if_true,
      List.filter_nil, List.length_singleton]
    omega
  case isFalse => exact damageTrigger_keeps h

theorem tagRowArrived_keeps {tag : Byte} {bytes : List Byte} {s₀ s : State} (h : Keeps s₀ s) :
    Keeps s₀ (tagRowArrived tag bytes s) := by
  unfold tagRowArrived
  repeat' first
      | with_reducible assumption
      | with_reducible apply lostExposed_keeps
      | with_reducible apply placeFifoRow_keeps
      | with_reducible apply damageTrigger_keeps
      | split

theorem rowArrived_keeps {bytes : List Byte} {s₀ s : State} (h : Keeps s₀ s) : Keeps s₀ (rowArrived bytes s) := by
  unfold rowArrived
  split
  · exact h
  · exact tagRowArrived_keeps h

theorem frameEndArrived_keeps {tag : Byte} {count : Word16} {s₀ s : State} (h : Keeps s₀ s) :
    Keeps s₀ (frameEndArrived tag count s) := by
  unfold frameEndArrived
  split
  · exact latePacket_keeps h
  · refine fifo_keeps (fun _ => ⟨rfl, rfl⟩) (fun hl => ?_) (lostExposed_keeps h)
    simpa [fifoLevel, List.filter_append, isRow] using hl

theorem exposedArrived_keeps {tag : Byte} {s₀ s : State} (h : Keeps s₀ s) :
    Keeps s₀ (exposedArrived tag s) := by
  unfold exposedArrived
  repeat' first
      | with_reducible assumption
      | with_reducible apply latePacket_keeps
      | with_reducible apply reportExposed_keeps
      | dsimp only
      | split

/-- A row written into its slot keeps the invariant (R66). -/
theorem writeFifoRow_inv {tag : Byte} {row : Nat} {samples : List Byte} {s : State} (h : Inv s) :
    Inv (writeFifoRow tag row samples s) := by
  unfold writeFifoRow
  split
  · exact h
  · split
    · exact h
    · exact writeFrame_inv h

/-- A row's leaving the FIFO keeps the invariant (R67). -/
theorem fifoRowDone_inv {s : State} (h : Inv s) : Inv (fifoRowDone s) := by
  unfold fifoRowDone
  split
  · rename_i tag row samples rest hq
    have hw := writeFifoRow_inv (tag := tag) (row := row) (samples := samples) h
    refine Inv.of_keeps (flowCheck_keeps (fifo_keeps (fun _ => ⟨rfl, rfl⟩) (fun hl => ?_) (Keeps.refl _))) hw
    have hf : (writeFifoRow tag row samples s).intake = s.intake := by
      unfold writeFifoRow
      split
      · rfl
      · split <;> rfl
    simp only [fifoLevel, hf, hq, List.filter_cons, isRow, if_true, List.length_cons] at hl
    simp only [fifoLevel, modIntake_intake]
    omega
  · exact h

theorem endFrame_keeps {e : Trigger} {count : Nat} {s₀ s : State} (h : Keeps s₀ s) :
    Keeps s₀ (endFrame e count s) := by
  unfold endFrame
  repeat' first
      | with_reducible assumption
      | ((with_reducible refine modIntake_keeps ?_ ?_) <;> [exact fun _ => ⟨rfl, rfl, rfl⟩; skip])
      | ((with_reducible refine fewerTriggers_keeps ?_ ?_) <;> [exact fun _ => ⟨rfl, List.length_filter_le _ _, rfl⟩; skip])
      | ((with_reducible refine fewerTriggers_keeps ?_ ?_) <;> [exact fun _ => ⟨rfl, by simp, rfl⟩; skip])
      | with_reducible apply moveSlot_keeps
      | with_reducible apply plateFrameEnd_keeps
      | dsimp only
      | split

theorem markAdvance_keeps {s₀ s t : State} (h : Keeps s₀ s) (e : markAdvance s = some t) : Keeps s₀ t := by
  unfold markAdvance at e
  split at e
  · rename_i tag count rest hq
    have popped : Keeps s₀ (modIntake (fun i => { i with fifo := rest }) s) := by
      refine fifo_keeps (fun _ => ⟨rfl, rfl⟩) (fun hl => ?_) h
      simp only [fifoLevel, hq, List.filter_cons, isRow] at hl
      simpa [fifoLevel] using hl
    dsimp only at e
    split at e <;> (injection e with e; subst e)
    · exact endFrame_keeps popped
    · exact latePacket_keeps popped
  · cases e

theorem reserveSlots_keeps {slots : List Nat} {owner : Option Nat} {s₀ s : State} (h : Keeps s₀ s) :
    Keeps s₀ (reserveSlots slots owner s) := by
  unfold reserveSlots
  repeat' first
      | with_reducible assumption
      | with_reducible apply modSlot_keeps
      | with_reducible refine foldl_keeps (fun hf => ?_) ?_
      | dsimp only
      | split

theorem grantAdvance_keeps {s₀ s t : State} (h : Keeps s₀ s)
    (e : grantAdvance s = some t) : Keeps s₀ t := by
  unfold grantAdvance at e
  (try dsimp only at e)
  repeat' split at e
  all_goals first
    | (cases e; done)
    | skip
  all_goals try (injection e with e; subst e)
  all_goals
    repeat' first
      | with_reducible assumption
      | with_reducible apply reservationGranted_keeps
      | with_reducible apply reserveSlots_keeps
      | with_reducible apply withdrawReservation_keeps
      | dsimp only
      | split

theorem triggerAdvance_keeps {s₀ s t : State} (h : Keeps s₀ s) (e : triggerAdvance s = some t) : Keeps s₀ t := by
  have asked : Keeps s₀ (modIntake (fun i => { i with waitingTrigger := none }) s) :=
    modIntake_keeps (fun _ => ⟨rfl, rfl, rfl⟩) h
  unfold triggerAdvance at e
  split at e
  · cases e
  · dsimp only at e
    split at e
    · injection e with e; subst e; exact asked
    · split at e
      · injection e with e
        subst e
        exact takeTrigger_keeps (by assumption) asked
      · cases e

/-! ## CacheOps -/

theorem takeHold_keeps {index : Nat} {entry : Nat} {s₀ s : State} (h : Keeps s₀ s) :
    Keeps s₀ (takeHold index entry s) := by
  unfold takeHold
  repeat' first
      | with_reducible assumption
      | with_reducible apply modTaken_keeps
      | dsimp only
      | split

theorem hitEntry_keeps {n : Nat} {e : DirectoryEntry} {s₀ s : State} (h : Keeps s₀ s) :
    Keeps s₀ (hitEntry n e s) := by
  unfold hitEntry
  repeat' first
      | with_reducible assumption
      | with_reducible apply applyPin_keeps
      | ((with_reducible refine modEntry_keeps ?_ ?_) <;> [(intro e; (try split) <;> simp_all); skip])
      | with_reducible apply toLruHead_keeps
      | dsimp only
      | split

theorem resolveIndex_keeps {index : Nat} {e : DirectoryEntry} {s₀ s t : State} (h : Keeps s₀ s)
    (eq : resolveIndex index e s = some t) : Keeps s₀ t := by
  unfold resolveIndex at eq
  split at eq
  · next n hc =>
    split at eq
    · injection eq with eq; subst eq; exact takeHold_keeps (hitEntry_keeps h)
    · split at eq
      · injection eq with eq
        subst eq
        exact takeHold_keeps (beginLoad_keeps (fun b => carrying_only b hc) h)
      · cases eq
  · next hc =>
    split at eq
    · injection eq with eq
      subst eq
      exact takeHold_keeps (beginLoad_keeps (fun _ => carrying_none hc) h)
    · cases eq

theorem resolveAdvance_keeps {s₀ s t : State} (h : Keeps s₀ s)
    (e : resolveAdvance s = some t) : Keeps s₀ t := by
  unfold resolveAdvance at e
  (try dsimp only at e)
  repeat' split at e
  all_goals first
    | (cases e; done)
    | skip
  all_goals try (injection e with e; subst e)
  all_goals
    repeat' first
      | with_reducible assumption
      | (with_reducible exact resolveIndex_keeps (by with_reducible assumption) (by with_reducible assumption))
      | dsimp only
      | split

/-- Bytes of a load keep the invariant (R88). -/
theorem loadRead_inv {n op offset : Nat} {data : List Byte} {s : State} (h : Inv s) :
    Inv (loadRead n op offset data s) := by
  unfold loadRead
  split
  · exact h
  · split
    · exact h
    · refine Inv.of_keeps (modEntry_keeps (fun e => ?_) (Keeps.refl _)) (writeFrame_inv h)
      unfold landLoad
      split
      · split <;> simp_all
      · exact ⟨id, fun hs => ⟨hs, rfl⟩⟩

theorem loadReadFailed_keeps {n : Nat} {op : Nat} {s₀ s : State} (h : Keeps s₀ s) :
    Keeps s₀ (loadReadFailed n op s) := by
  unfold loadReadFailed
  repeat' first
      | with_reducible assumption
      | with_reducible apply failLoad_keeps
      | dsimp only
      | split

theorem entryGranted_keeps {n : Nat} {s₀ s : State} (h : Keeps s₀ s) :
    Keeps s₀ (entryGranted n s) := by
  unfold entryGranted
  repeat' first
      | with_reducible assumption
      | ((with_reducible refine modCache_keeps ?_ ?_) <;> [exact fun _ => rfl; skip])
      | ((with_reducible refine modEntry_keeps ?_ ?_) <;> [(intro e; (try split) <;> simp_all); skip])
      | dsimp only
      | split

theorem modWork_keeps {f : ReferenceWork → ReferenceWork} {s₀ s : State} (h : Keeps s₀ s) :
    Keeps s₀ (modWork f s) := by
  unfold modWork
  repeat' first
      | with_reducible assumption
      | ((with_reducible refine modCache_keeps ?_ ?_) <;> [exact fun _ => rfl; skip])
      | dsimp only
      | split

theorem accumulateRows_inv {acc : Nat × Nat} {slot : Nat} {first : Bool} {n : Nat} {s : State} (h : Inv s) :
    Inv (accumulateRows acc slot first n s) := by
  induction n with
  | zero => exact h
  | succ n ih => exact writeFrame_inv ih

/-- A frame taken into the sums keeps the invariant (R92). -/
theorem accumulateFrame_inv {s : State} (h : Inv s) : Inv (accumulateFrame s) := by
  unfold accumulateFrame
  split
  · exact h
  · split
    · exact Inv.of_keeps (modPlate_keeps (modWork_keeps (moveSlots_keeps (Keeps.refl _)))) (accumulateRows_inv h)
    · exact h

theorem presentWriteBack_keeps {rs : List Request} {s₀ s : State} (h : Keeps s₀ s) :
    Keeps s₀ (presentWriteBack rs s) := modCache_keeps (fun _ => rfl) h

/-- The entry chosen is the only one to carry the target index (R94, R83). -/
theorem installChoice_only {n : Nat} {w : ReferenceWork} {s : State} (e : installChoice s w = some n) (b : Bounded s) :
    CarriesOnly s w.target n := by
  unfold installChoice at e
  split at e
  · next hc =>
    split at e
    · cases e
    · injection e with e; subst e; exact carrying_only b hc
  · next hc => exact carrying_none hc

theorem chooseInstall_keeps {n : Nat} {w : ReferenceWork} {s₀ s : State}
    (hn : Bounded s → CarriesOnly s w.target n) (h : Keeps s₀ s) : Keeps s₀ (chooseInstall n w s) := by
  unfold chooseInstall
  exact presentWriteBack_keeps (modWork_keeps (useOp_keeps (toLruHead_keeps
    (carryEntry_keeps (fun _ => ⟨id, rfl⟩) hn h))))

theorem workAdvance_keeps {s₀ s t : State} (h : Keeps s₀ s) (e : workAdvance s = some t) : Keeps s₀ t := by
  unfold workAdvance at e
  split at e
  · cases e
  · split at e
    · injection e with e; subst e; exact modWork_keeps h
    · split at e
      · simp only [Option.map_eq_some_iff] at e
        obtain ⟨n, hc, rfl⟩ := e
        exact chooseInstall_keeps (installChoice_only hc) h
      · cases e

theorem writeBackRead_keeps {op : Nat} {data : List Byte} {s₀ s : State} (h : Keeps s₀ s) :
    Keeps s₀ (writeBackRead op data s) := by
  unfold writeBackRead
  repeat' first
      | with_reducible assumption
      | with_reducible apply modWork_keeps
      | with_reducible apply presentWriteBack_keeps
      | ((with_reducible refine modEntry_keeps ?_ ?_) <;> [(intro e; (try split) <;> simp_all); skip])
      | with_reducible refine foldl_keeps (fun hf => ?_) ?_
      | dsimp only
      | split

theorem writeBackReadFailed_keeps {op : Nat} {s₀ s : State} (h : Keeps s₀ s) :
    Keeps s₀ (writeBackReadFailed op s) := by
  unfold writeBackReadFailed
  repeat' first
      | with_reducible assumption
      | with_reducible apply failActive_keeps
      | dsimp only
      | split

/-- A row built keeps the invariant (R95). -/
theorem buildRow_inv {s : State} (h : Inv s) : Inv (buildRow s) := by
  unfold buildRow
  split
  · exact h
  · split
    · split
      · exact h
      · exact Inv.of_keeps (modWork_keeps (presentWriteBack_keeps (Keeps.refl _))) (writeFrame_inv h)
    · exact h

theorem completeResult_keeps {w : ReferenceWork} {s₀ s : State} (h : Keeps s₀ s) :
    Keeps s₀ (completeResult w s) := by
  unfold completeResult
  repeat' first
      | with_reducible assumption
      | with_reducible apply modWork_keeps
      | with_reducible apply moveSlots_keeps
      | with_reducible apply presentWriteBack_keeps
      | dsimp only
      | split

theorem rowAccepted_keeps {op : Nat} {row : Nat} {s₀ s : State} (h : Keeps s₀ s) :
    Keeps s₀ (rowAccepted op row s) := by
  unfold rowAccepted
  repeat' first
      | with_reducible assumption
      | with_reducible apply completeResult_keeps
      | dsimp only
      | split

theorem validAccepted_keeps {op : Nat} {s₀ s : State} (h : Keeps s₀ s) :
    Keeps s₀ (validAccepted op s) := by
  unfold validAccepted
  repeat' first
      | with_reducible assumption
      | with_reducible apply applyPin_keeps
      | with_reducible apply modActive_keeps
      | ((with_reducible refine modCache_keeps ?_ ?_) <;> [exact fun _ => rfl; skip])
      | ((with_reducible refine modEntry_keeps ?_ ?_) <;> [(intro e; unfold installed; split <;> simp_all); skip])
      | with_reducible refine foldl_keeps (fun hf => ?_) ?_
      | dsimp only
      | split

/-! ## MergeOps -/

theorem beginMerge_keeps {t : MergeTile} {s₀ s : State} (h : Keeps s₀ s) :
    Keeps s₀ (beginMerge t s) := by
  unfold beginMerge
  repeat' first
      | with_reducible assumption
      | with_reducible apply modMerge_keeps
      | with_reducible apply moveSlots_keeps
      | dsimp only
      | split

theorem mergeAdvance_keeps {s₀ s t : State} (h : Keeps s₀ s)
    (e : mergeAdvance s = some t) : Keeps s₀ t := by
  unfold mergeAdvance at e
  (try dsimp only at e)
  repeat' split at e
  all_goals first
    | (cases e; done)
    | skip
  all_goals try (injection e with e; subst e)
  all_goals
    repeat' first
      | with_reducible assumption
      | with_reducible apply beginMerge_keeps
      | with_reducible apply modMerge_keeps
      | dsimp only
      | split

theorem placeRow_keeps {e : RowEntry} {s₀ s : State} (h : Keeps s₀ s) :
    Keeps s₀ (placeRow e s) := by
  unfold placeRow
  repeat' first
      | with_reducible assumption
      | with_reducible apply modWriter_keeps
      | dsimp only
      | split

theorem endMerge_keeps {t : MergeTile} {stats : TileStats} {s₀ s : State} (h : Keeps s₀ s) :
    Keeps s₀ (endMerge t stats s) := by
  unfold endMerge
  repeat' first
      | with_reducible assumption
      | with_reducible apply modMerge_keeps
      | with_reducible apply modWriter_keeps
      | with_reducible apply moveSlots_keeps
      | dsimp only
      | split

theorem rowComputed_keeps {s₀ s : State} (h : Keeps s₀ s) :
    Keeps s₀ (rowComputed s) := by
  unfold rowComputed
  repeat' first
      | with_reducible assumption
      | with_reducible apply endMerge_keeps
      | with_reducible apply modMerge_keeps
      | with_reducible apply placeRow_keeps
      | dsimp only
      | split

/-! ## WriterOps -/

theorem modPlane_keeps {plane : Plane} {f : PlaneRecord → PlaneRecord} {s₀ s : State} (h : Keeps s₀ s) :
    Keeps s₀ (modPlane plane f s) := by
  unfold modPlane
  repeat' first
      | with_reducible assumption
      | with_reducible apply modWriter_keeps
      | dsimp only
      | split

theorem setTask_keeps {t : WriterTask} {s₀ s : State} (h : Keeps s₀ s) :
    Keeps s₀ (setTask t s) := by
  unfold setTask
  repeat' first
      | with_reducible assumption
      | with_reducible apply modWriter_keeps
      | dsimp only
      | split

theorem writerActivate_keeps {p : OutputParams} {descriptor : Nat} {s₀ s : State} (h : Keeps s₀ s) :
    Keeps s₀ (writerActivate p descriptor s) := by
  unfold writerActivate
  repeat' first
      | with_reducible assumption
      | with_reducible apply modWriter_keeps
      | with_reducible apply presentWriter_keeps
      | with_reducible apply useOp_keeps
      | dsimp only
      | split

theorem descriptorRead_keeps {op : Nat} {address : Nat} {data : List Byte} {s₀ s : State} (h : Keeps s₀ s) :
    Keeps s₀ (descriptorRead op address data s) := by
  unfold descriptorRead
  repeat' first
      | with_reducible assumption
      | with_reducible apply modWriter_keeps
      | dsimp only
      | split

theorem descriptorFailed_keeps {op : Nat} {s₀ s : State} (h : Keeps s₀ s) :
    Keeps s₀ (descriptorFailed op s) := by
  unfold descriptorFailed
  repeat' first
      | with_reducible assumption
      | with_reducible apply failActive_keeps
      | with_reducible apply setTask_keeps
      | dsimp only
      | split

theorem beginScan_keeps {planes : List Plane} {reserved : Bool} {s₀ s : State} (h : Keeps s₀ s) :
    Keeps s₀ (beginScan planes reserved s) := by
  unfold beginScan
  repeat' first
      | with_reducible assumption
      | with_reducible apply presentWriter_keeps
      | with_reducible apply setTask_keeps
      | with_reducible apply useOp_keeps
      | dsimp only
      | split

theorem beginTake_keeps {plane : Plane} {rest : List Plane} {p : OutputParams} {s₀ s : State} (h : Keeps s₀ s) :
    Keeps s₀ (beginTake plane rest p s) := by
  unfold beginTake
  repeat' first
      | with_reducible assumption
      | with_reducible apply beginScan_keeps
      | with_reducible apply failActive_keeps
      | dsimp only
      | split

theorem dryPools_keeps {planes : List Plane} {s₀ s : State} (h : Keeps s₀ s) :
    Keeps s₀ (dryPools planes s) := by
  unfold dryPools
  repeat' first
      | with_reducible assumption
      | with_reducible apply modWriter_keeps
      | dsimp only
      | split

theorem presentTake_keeps {plane : Plane} {rest : List Plane} {scan : Scan} {p : OutputParams} {bytes : List Byte} {s₀ s : State} (h : Keeps s₀ s) :
    Keeps s₀ (presentTake plane rest scan p bytes s) := by
  unfold presentTake
  repeat' first
      | with_reducible assumption
      | with_reducible apply modWriter_keeps
      | with_reducible apply presentWriter_keeps
      | dsimp only
      | split

theorem rejectEntry_keeps {entry : Nat} {s₀ s : State} (h : Keeps s₀ s) :
    Keeps s₀ (rejectEntry entry s) := by
  unfold rejectEntry
  repeat' first
      | with_reducible assumption
      | with_reducible apply modWriter_keeps
      | with_reducible apply presentWriter_keeps
      | dsimp only
      | split

theorem scanOn_keeps {planes : List Plane} {scan : Scan} {s₀ s : State} (h : Keeps s₀ s) :
    Keeps s₀ (scanOn planes scan s) := by
  unfold scanOn
  repeat' first
      | with_reducible assumption
      | with_reducible apply beginScan_keeps
      | with_reducible apply dryPools_keeps
      | with_reducible apply presentWriter_keeps
      | with_reducible apply setTask_keeps
      | with_reducible apply useOp_keeps
      | dsimp only
      | split

theorem poolEntryRead_keeps {op : Nat} {data : List Byte} {s₀ s : State} (h : Keeps s₀ s) :
    Keeps s₀ (poolEntryRead op data s) := by
  unfold poolEntryRead
  repeat' first
      | with_reducible assumption
      | with_reducible apply presentTake_keeps
      | with_reducible apply rejectEntry_keeps
      | with_reducible apply scanOn_keeps
      | dsimp only
      | split

theorem poolEntryFailed_keeps {op : Nat} {s₀ s : State} (h : Keeps s₀ s) :
    Keeps s₀ (poolEntryFailed op s) := by
  unfold poolEntryFailed
  repeat' first
      | with_reducible assumption
      | with_reducible apply failActive_keeps
      | dsimp only
      | split

theorem takeFirstAccepted_keeps {s₀ s : State} (h : Keeps s₀ s) :
    Keeps s₀ (takeFirstAccepted s) := by
  unfold takeFirstAccepted
  repeat' first
      | with_reducible assumption
      | with_reducible apply setTask_keeps
      | dsimp only
      | split

theorem completeTake_keeps {s₀ s : State} (h : Keeps s₀ s) :
    Keeps s₀ (completeTake s) := by
  unfold completeTake
  repeat' first
      | with_reducible assumption
      | with_reducible apply modPlane_keeps
      | with_reducible apply modWriter_keeps
      | dsimp only
      | split

theorem closePlane_keeps {p : OutputParams} {plane : Plane} {s₀ s : State} (h : Keeps s₀ s) :
    Keeps s₀ (closePlane p plane s) := by
  unfold closePlane
  repeat' first
      | with_reducible assumption
      | with_reducible apply modPlane_keeps
      | with_reducible apply presentWriter_keeps
      | dsimp only
      | split

theorem closePlanes_keeps {p : OutputParams} {s₀ s : State} (h : Keeps s₀ s) :
    Keeps s₀ (closePlanes p s) := by
  unfold closePlanes
  repeat' first
      | with_reducible assumption
      | with_reducible apply closePlane_keeps
      | with_reducible refine foldl_keeps (fun hf => ?_) ?_
      | dsimp only
      | split

theorem presentPlane_keeps {plane : Plane} {rest : List Plane} {e : Extent} {row : RowEntry} {s₀ s : State} (h : Keeps s₀ s) :
    Keeps s₀ (presentPlane plane rest e row s) := by
  unfold presentPlane
  repeat' first
      | with_reducible assumption
      | with_reducible apply presentWriter_keeps
      | with_reducible apply setTask_keeps
      | dsimp only
      | split

theorem planeRowAccepted_keeps {plane : Plane} {s₀ s : State} (h : Keeps s₀ s) :
    Keeps s₀ (planeRowAccepted plane s) := by
  unfold planeRowAccepted
  repeat' first
      | with_reducible assumption
      | with_reducible apply closePlane_keeps
      | with_reducible apply modPlane_keeps
      | with_reducible apply modWriter_keeps
      | with_reducible apply setTask_keeps
      | dsimp only
      | split

theorem beginRow_keeps {tile : Nat} {p : OutputParams} {s₀ s : State} (h : Keeps s₀ s) :
    Keeps s₀ (beginRow tile p s) := by
  unfold beginRow
  repeat' first
      | with_reducible assumption
      | with_reducible apply modWriter_keeps
      | dsimp only
      | split

theorem publishTile_keeps {mark : TileMark} {p : OutputParams} {s₀ s : State} (h : Keeps s₀ s) :
    Keeps s₀ (publishTile mark p s) := by
  unfold publishTile
  repeat' first
      | with_reducible assumption
      | with_reducible apply closePlanes_keeps
      | with_reducible apply presentWriter_keeps
      | with_reducible apply setTask_keeps
      | dsimp only
      | split

theorem countPublished_keeps {tileEnd : Bool} {s₀ s : State} (h : Keeps s₀ s) :
    Keeps s₀ (countPublished tileEnd s) := by
  unfold countPublished
  repeat' first
      | with_reducible assumption
      | with_reducible apply modActive_keeps
      | with_reducible apply modWalker_keeps
      | with_reducible apply presentWalker_keeps
      | dsimp only
      | split

theorem tilePublishedAccepted_keeps {tile : Nat} {s₀ s : State} (h : Keeps s₀ s) :
    Keeps s₀ (tilePublishedAccepted tile s) := by
  unfold tilePublishedAccepted
  repeat' first
      | with_reducible assumption
      | with_reducible apply countPublished_keeps
      | with_reducible apply modWriter_keeps
      | dsimp only
      | split

theorem failTile_keeps {mark : TileMark} {p : OutputParams} {s₀ s : State} (h : Keeps s₀ s) :
    Keeps s₀ (failTile mark p s) := by
  unfold failTile
  repeat' first
      | with_reducible assumption
      | with_reducible apply closePlanes_keeps
      | with_reducible apply modWriter_keeps
      | with_reducible apply presentWriter_keeps
      | dsimp only
      | split

theorem beginFinish_keeps {p : OutputParams} {s₀ s : State} (h : Keeps s₀ s) :
    Keeps s₀ (beginFinish p s) := by
  unfold beginFinish
  repeat' first
      | with_reducible assumption
      | with_reducible apply modWriter_keeps
      | with_reducible apply presentWriter_keeps
      | dsimp only
      | split

theorem reportFinished_keeps {s₀ s : State} (h : Keeps s₀ s) :
    Keeps s₀ (reportFinished s) := by
  unfold reportFinished
  repeat' first
      | with_reducible assumption
      | with_reducible apply modActive_keeps
      | with_reducible apply modWriter_keeps
      | dsimp only
      | split

theorem headAdvance_keeps {p : OutputParams} {s₀ s t : State} (h : Keeps s₀ s)
    (e : headAdvance p s = some t) : Keeps s₀ t := by
  unfold headAdvance at e
  (try dsimp only at e)
  repeat' split at e
  all_goals first
    | (cases e; done)
    | skip
  all_goals try (injection e with e; subst e)
  all_goals
    repeat' first
      | with_reducible assumption
      | with_reducible apply beginFinish_keeps
      | with_reducible apply beginRow_keeps
      | with_reducible apply failTile_keeps
      | with_reducible apply modWriter_keeps
      | with_reducible apply publishTile_keeps
      | dsimp only
      | split

theorem writerAdvance_keeps {s₀ s t : State} (h : Keeps s₀ s)
    (e : writerAdvance s = some t) : Keeps s₀ t := by
  unfold writerAdvance at e
  (try dsimp only at e)
  repeat' split at e
  all_goals first
    | (cases e; done)
    | skip
  all_goals try (injection e with e; subst e)
  all_goals
    repeat' first
      | with_reducible assumption
      | with_reducible apply beginTake_keeps
      | (with_reducible exact headAdvance_keeps (by with_reducible assumption) (by with_reducible assumption))
      | with_reducible apply modWriter_keeps
      | with_reducible apply presentPlane_keeps
      | with_reducible apply reportFinished_keeps
      | with_reducible apply setTask_keeps
      | dsimp only
      | split

theorem examineDry_keeps {s₀ s : State} (h : Keeps s₀ s) :
    Keeps s₀ (examineDry s) := by
  unfold examineDry
  repeat' first
      | with_reducible assumption
      | with_reducible apply beginTake_keeps
      | dsimp only
      | split

theorem dryRecheck_keeps {s₀ s : State} (h : Keeps s₀ s) :
    Keeps s₀ (dryRecheck s) := by
  unfold dryRecheck
  repeat' first
      | with_reducible assumption
      | with_reducible apply examineDry_keeps
      | with_reducible apply modWriter_keeps
      | dsimp only
      | split

theorem dryExpired_keeps {s₀ s : State} (h : Keeps s₀ s) :
    Keeps s₀ (dryExpired s) := by
  unfold dryExpired
  repeat' first
      | with_reducible assumption
      | with_reducible apply failActive_keeps
      | with_reducible apply modWriter_keeps
      | dsimp only
      | split

end Sys2Proof.Machine
end

