-- ==== Sys2Proof/Laws/KeepsOrders.lean ====
section
/-! SUPPORT. The Order Walker, the port and the settling of an event keep frame memory and the bounds. -/

namespace Sys2Proof.Machine

set_option linter.unusedTactic false
set_option linter.unreachableTactic false

/-! ## WalkerOps -/

theorem endAsWait_keeps {failures : Nat} {s₀ s : State} (h : Keeps s₀ s) :
    Keeps s₀ (endAsWait failures s) := by
  unfold endAsWait
  repeat' first
      | with_reducible assumption
      | with_reducible apply modWalker_keeps
      | dsimp only
      | split

theorem beginExamination_keeps {s₀ s : State} (h : Keeps s₀ s) :
    Keeps s₀ (beginExamination s) := by
  unfold beginExamination
  repeat' first
      | with_reducible assumption
      | with_reducible apply endAsWait_keeps
      | with_reducible apply modWalker_keeps
      | with_reducible apply presentWalker_keeps
      | with_reducible apply useOp_keeps
      | dsimp only
      | split

theorem chainLinkRead_keeps {op : Nat} {data : List Byte} {s₀ s : State} (h : Keeps s₀ s) :
    Keeps s₀ (chainLinkRead op data s) := by
  unfold chainLinkRead
  repeat' first
      | with_reducible assumption
      | with_reducible apply endAsWait_keeps
      | with_reducible apply presentWalker_keeps
      | dsimp only
      | split

theorem chainReadFailed_keeps {op : Nat} {s₀ s : State} (h : Keeps s₀ s) :
    Keeps s₀ (chainReadFailed op s) := by
  unfold chainReadFailed
  repeat' first
      | with_reducible assumption
      | with_reducible apply endAsWait_keeps
      | with_reducible apply enterFaulted_keeps
      | dsimp only
      | split

theorem withdrawCandidate_keeps {address : Nat} {s₀ s : State} (h : Keeps s₀ s) :
    Keeps s₀ (withdrawCandidate address s) := by
  unfold withdrawCandidate
  repeat' first
      | with_reducible assumption
      | with_reducible apply modWalker_keeps
      | with_reducible apply presentWalker_keeps
      | dsimp only
      | split

theorem beginSetup_keeps {o : TakenOrder} {s₀ s : State} (h : Keeps s₀ s) :
    Keeps s₀ (beginSetup o s) := by
  unfold beginSetup
  repeat' first
      | with_reducible assumption
      | with_reducible apply failTaken_keeps
      | with_reducible apply modTaken_keeps
      | with_reducible apply presentWalker_keeps
      | dsimp only
      | split

theorem takeOrder_keeps {address : Nat} {header : List Byte} {s₀ s : State} (h : Keeps s₀ s) :
    Keeps s₀ (takeOrder address header s) := by
  unfold takeOrder
  repeat' first
      | with_reducible assumption
      | with_reducible apply beginSetup_keeps
      | with_reducible apply modWalker_keeps
      | with_reducible apply presentWalker_keeps
      | with_reducible apply useOp_keeps
      | dsimp only
      | split

theorem chainHeaderRead_keeps {op : Nat} {address : Nat} {data : List Byte} {s₀ s : State} (h : Keeps s₀ s) :
    Keeps s₀ (chainHeaderRead op address data s) := by
  unfold chainHeaderRead
  repeat' first
      | with_reducible assumption
      | with_reducible apply endAsWait_keeps
      | with_reducible apply takeOrder_keeps
      | with_reducible apply withdrawCandidate_keeps
      | dsimp only
      | split

theorem setupBody_keeps {o : TakenOrder} {bytes : List Byte} {s₀ s : State} (h : Keeps s₀ s) :
    Keeps s₀ (setupBody o bytes s) := by
  unfold setupBody
  repeat' first
      | with_reducible assumption
      | with_reducible apply failTaken_keeps
      | with_reducible apply modTaken_keeps
      | dsimp only
      | split

theorem bodyRead_keeps {number : Nat} {offset : Nat} {data : List Byte} {s₀ s : State} (h : Keeps s₀ s) :
    Keeps s₀ (bodyRead number offset data s) := by
  unfold bodyRead
  repeat' first
      | with_reducible assumption
      | with_reducible apply modTaken_keeps
      | with_reducible apply setupBody_keeps
      | dsimp only
      | split

theorem bodyFailed_keeps {number : Nat} {s₀ s : State} (h : Keeps s₀ s) :
    Keeps s₀ (bodyFailed number s) := by
  unfold bodyFailed
  repeat' first
      | with_reducible assumption
      | with_reducible apply failTaken_keeps
      | dsimp only
      | split

theorem checkRole_keeps {role : DirectoryRole} {e : DirectoryEntry} {s₀ s : State} (h : Keeps s₀ s) :
    Keeps s₀ (checkRole role e s) := by
  unfold checkRole
  repeat' first
      | with_reducible assumption
      | with_reducible apply failTaken_keeps
      | with_reducible apply modTaken_keeps
      | dsimp only
      | split

theorem nextRole_keeps {o : TakenOrder} {role : DirectoryRole} {s₀ s : State} (h : Keeps s₀ s) :
    Keeps s₀ (nextRole o role s) := by
  unfold nextRole
  repeat' first
      | with_reducible assumption
      | with_reducible apply checkRole_keeps
      | with_reducible apply failTaken_keeps
      | with_reducible apply modTaken_keeps
      | with_reducible apply presentCache_keeps
      | with_reducible apply useOp_keeps
      | dsimp only
      | split

theorem directoryRead_keeps {op : Nat} {data : List Byte} {s₀ s : State} (h : Keeps s₀ s) :
    Keeps s₀ (directoryRead op data s) := by
  unfold directoryRead
  repeat' first
      | with_reducible assumption
      | with_reducible apply modTaken_keeps
      | dsimp only
      | split

theorem directoryFailed_keeps {op : Nat} {s₀ s : State} (h : Keeps s₀ s) :
    Keeps s₀ (directoryFailed op s) := by
  unfold directoryFailed
  repeat' first
      | with_reducible assumption
      | with_reducible apply failTaken_keeps
      | dsimp only
      | split

theorem modBank_keeps {n : Nat} {f : ToneBank → ToneBank} {s₀ s : State} (h : Keeps s₀ s) :
    Keeps s₀ (modBank n f s) := by
  unfold modBank
  repeat' first
      | with_reducible assumption
      | with_reducible apply modWalker_keeps
      | dsimp only
      | split

theorem takeBank_keeps {o : TakenOrder} {address : Nat} {s₀ s : State} (h : Keeps s₀ s) :
    Keeps s₀ (takeBank o address s) := by
  unfold takeBank
  repeat' first
      | with_reducible assumption
      | with_reducible apply modBank_keeps
      | with_reducible apply modTaken_keeps
      | with_reducible apply modWalker_keeps
      | dsimp only
      | split

theorem toneRead_keeps {owner : Nat} {offset : Nat} {data : List Byte} {s₀ s : State} (h : Keeps s₀ s) :
    Keeps s₀ (toneRead owner offset data s) := by
  unfold toneRead
  repeat' first
      | with_reducible assumption
      | with_reducible apply modBank_keeps
      | dsimp only
      | split

theorem toneFailed_keeps {owner : Nat} {s₀ s : State} (h : Keeps s₀ s) :
    Keeps s₀ (toneFailed owner s) := by
  unfold toneFailed
  repeat' first
      | with_reducible assumption
      | with_reducible apply failActive_keeps
      | with_reducible apply failTaken_keeps
      | with_reducible apply stopLoad_keeps
      | dsimp only
      | split

theorem setupAdvance_keeps {s₀ s t : State} (h : Keeps s₀ s)
    (e : setupAdvance s = some t) : Keeps s₀ t := by
  unfold setupAdvance at e
  (try dsimp only at e)
  repeat' split at e
  all_goals first
    | (cases e; done)
    | skip
  all_goals try (injection e with e; subst e)
  all_goals
    repeat' first
      | with_reducible assumption
      | with_reducible apply modTaken_keeps
      | with_reducible apply nextRole_keeps
      | with_reducible apply takeBank_keeps
      | dsimp only
      | split

theorem walkRecheck_keeps {s₀ s : State} (h : Keeps s₀ s) :
    Keeps s₀ (walkRecheck s) := by
  unfold walkRecheck
  repeat' first
      | with_reducible assumption
      | with_reducible apply modTaken_keeps
      | with_reducible apply modWalker_keeps
      | with_reducible apply presentWalker_keeps
      | with_reducible apply useOp_keeps
      | dsimp only
      | split

theorem takenSampled_keeps {op : Nat} {withdraw : Bool} {s₀ s : State} (h : Keeps s₀ s) :
    Keeps s₀ (takenSampled op withdraw s) := by
  unfold takenSampled
  repeat' first
      | with_reducible assumption
      | with_reducible apply endTaken_keeps
      | with_reducible apply modTaken_keeps
      | with_reducible apply modWalker_keeps
      | dsimp only
      | split

theorem activationAdvance_keeps {s₀ s t : State} (h : Keeps s₀ s)
    (e : activationAdvance s = some t) : Keeps s₀ t := by
  unfold activationAdvance at e
  (try dsimp only at e)
  repeat' split at e
  all_goals first
    | (cases e; done)
    | skip
  all_goals try (injection e with e; subst e)
  all_goals
    repeat' first
      | with_reducible assumption
      | with_reducible apply modTaken_keeps
      | with_reducible apply presentWalker_keeps
      | with_reducible apply useOp_keeps
      | dsimp only
      | split

theorem handParameters_keeps {o : TakenOrder} {body : OrderBody} {s₀ s : State} (h : Keeps s₀ s) :
    Keeps s₀ (handParameters o body s) := by
  unfold handParameters
  repeat' first
      | with_reducible assumption
      | ((with_reducible refine modCache_keeps ?_ ?_) <;> [exact fun _ => rfl; skip])
      | with_reducible apply modMerge_keeps
      | with_reducible apply writerActivate_keeps
      | dsimp only
      | split

theorem activate_keeps {o : TakenOrder} {body : OrderBody} {s₀ s : State} (h : Keeps s₀ s) :
    Keeps s₀ (activate o body s) := by
  unfold activate
  repeat' first
      | with_reducible assumption
      | with_reducible apply dropWalker_keeps
      | with_reducible apply handParameters_keeps
      | with_reducible apply modWalker_keeps
      | with_reducible apply plateActivate_keeps
      | dsimp only
      | split

theorem activationSampled_keeps {op : Nat} {withdraw : Bool} {s₀ s : State} (h : Keeps s₀ s) :
    Keeps s₀ (activationSampled op withdraw s) := by
  unfold activationSampled
  repeat' first
      | with_reducible assumption
      | with_reducible apply endTaken_keeps
      | with_reducible apply modTaken_keeps
      | with_reducible apply presentWalker_keeps
      | dsimp only
      | split

theorem activeAccepted_keeps {op : Nat} {s₀ s : State} (h : Keeps s₀ s) :
    Keeps s₀ (activeAccepted op s) := by
  unfold activeAccepted
  repeat' first
      | with_reducible assumption
      | with_reducible apply activate_keeps
      | dsimp only
      | split

theorem finalAdvance_keeps {s₀ s t : State} (h : Keeps s₀ s)
    (e : finalAdvance s = some t) : Keeps s₀ t := by
  unfold finalAdvance at e
  (try dsimp only at e)
  repeat' split at e
  all_goals first
    | (cases e; done)
    | skip
  all_goals try (injection e with e; subst e)
  all_goals
    repeat' first
      | with_reducible assumption
      | with_reducible apply modActive_keeps
      | with_reducible apply presentFinal_keeps
      | dsimp only
      | split

theorem freeBanks_keeps {owner : Nat} {s₀ s : State} (h : Keeps s₀ s) :
    Keeps s₀ (freeBanks owner s) := by
  unfold freeBanks
  repeat' first
      | with_reducible assumption
      | with_reducible apply modWalker_keeps
      | dsimp only
      | split

theorem releaseOrder_keeps {number : Nat} {holds : List CacheHold} {s₀ s : State} (h : Keeps s₀ s) :
    Keeps s₀ (releaseOrder number holds s) := by
  unfold releaseOrder
  repeat' first
      | with_reducible assumption
      | with_reducible apply freeBanks_keeps
      | with_reducible apply releaseHolds_keeps
      | with_reducible apply sweepSlots_keeps
      | dsimp only
      | split

theorem countFinished_keeps {s₀ s : State} (h : Keeps s₀ s) :
    Keeps s₀ (countFinished s) := by
  unfold countFinished
  repeat' first
      | with_reducible assumption
      | with_reducible apply modWalker_keeps
      | with_reducible apply presentWalker_keeps
      | dsimp only
      | split

theorem dropTaken_keeps {s₀ s : State} (h : Keeps s₀ s) :
    Keeps s₀ (dropTaken s) := by
  unfold dropTaken
  repeat' first
      | with_reducible assumption
      | with_reducible apply modWalker_keeps
      | with_reducible apply releaseOrder_keeps
      | dsimp only
      | split

theorem dropActive_keeps {s₀ s : State} (h : Keeps s₀ s) :
    Keeps s₀ (dropActive s) := by
  unfold dropActive
  repeat' first
      | with_reducible assumption
      | with_reducible apply modMerge_keeps
      | with_reducible apply modWalker_keeps
      | with_reducible apply plateIdle_keeps
      | with_reducible apply releaseOrder_keeps
      | dsimp only
      | split

theorem finalStateEnded_keeps {fromTaken : Bool} {accepted : Bool} {s₀ s : State} (h : Keeps s₀ s) :
    Keeps s₀ (finalStateEnded fromTaken accepted s) := by
  unfold finalStateEnded
  repeat' first
      | with_reducible assumption
      | with_reducible apply countFinished_keeps
      | with_reducible apply dropActive_keeps
      | with_reducible apply dropTaken_keeps
      | dsimp only
      | split

theorem slotGroupEnded_keeps {s₀ s : State} (h : Keeps s₀ s) :
    Keeps s₀ (slotGroupEnded s) := by
  unfold slotGroupEnded
  repeat' first
      | with_reducible assumption
      | with_reducible apply modActive_keeps
      | with_reducible apply modPlate_keeps
      | dsimp only
      | split

theorem walkAdvance_keeps {s₀ s t : State} (h : Keeps s₀ s)
    (e : walkAdvance s = some t) : Keeps s₀ t := by
  unfold walkAdvance at e
  (try dsimp only at e)
  repeat' split at e
  all_goals first
    | (cases e; done)
    | skip
  all_goals try (injection e with e; subst e)
  all_goals
    repeat' first
      | with_reducible assumption
      | with_reducible apply beginExamination_keeps
      | with_reducible apply modWalker_keeps
      | dsimp only
      | split

theorem nudgeWalk_keeps {s₀ s : State} (h : Keeps s₀ s) :
    Keeps s₀ (nudgeWalk s) := by
  unfold nudgeWalk
  repeat' first
      | with_reducible assumption
      | with_reducible apply modWalker_keeps
      | dsimp only
      | split

/-! ## PortOps -/

theorem writeAccepted_keeps {purpose : Purpose} {s₀ s : State} (h : Keeps s₀ s) :
    Keeps s₀ (writeAccepted purpose s) := by
  unfold writeAccepted
  repeat' first
      | with_reducible assumption
      | with_reducible apply activeAccepted_keeps
      | with_reducible apply completeTake_keeps
      | with_reducible apply countFinished_keeps
      | with_reducible apply finalStateEnded_keeps
      | with_reducible apply planeRowAccepted_keeps
      | with_reducible apply rowAccepted_keeps
      | with_reducible apply setCause_keeps
      | with_reducible apply slotGroupEnded_keeps
      | with_reducible apply startReported_keeps
      | with_reducible apply takeFirstAccepted_keeps
      | with_reducible apply tilePublishedAccepted_keeps
      | with_reducible apply validAccepted_keeps
      | with_reducible apply zeroAccepted_keeps
      | dsimp only
      | split

theorem writeDropped_keeps {purpose : Purpose} {s₀ s : State} (h : Keeps s₀ s) :
    Keeps s₀ (writeDropped purpose s) := by
  unfold writeDropped
  repeat' first
      | with_reducible assumption
      | with_reducible apply completeTake_keeps
      | with_reducible apply finalStateEnded_keeps
      | with_reducible apply slotGroupEnded_keeps
      | dsimp only
      | split

theorem writeFailed_keeps {purpose : Purpose} {s₀ s : State} (h : Keeps s₀ s) :
    Keeps s₀ (writeFailed purpose s) := by
  unfold writeFailed
  repeat' first
      | with_reducible assumption
      | with_reducible apply enterFaulted_keeps
      | with_reducible apply writeDropped_keeps
      | dsimp only
      | split

/-- What a read's data brings about keeps the invariant (R175). -/
theorem readDone_inv {address : Nat} {purpose : Purpose} {data : List Byte} {s : State} (h : Inv s) :
    Inv (readDone address purpose data s) := by
  unfold readDone
  have k := Keeps.refl s
  split
  · exact Inv.of_keeps (chainLinkRead_keeps k) h
  · exact Inv.of_keeps (chainHeaderRead_keeps k) h
  · exact Inv.of_keeps (bodyRead_keeps k) h
  · exact Inv.of_keeps (sampleAnswered_keeps k) h
  · exact Inv.of_keeps (takenSampled_keeps k) h
  · exact Inv.of_keeps (activationSampled_keeps k) h
  · exact Inv.of_keeps (toneRead_keeps k) h
  · exact Inv.of_keeps (directoryRead_keeps k) h
  · exact loadRead_inv h
  · exact Inv.of_keeps (writeBackRead_keeps k) h
  · exact Inv.of_keeps (descriptorRead_keeps k) h
  · exact Inv.of_keeps (poolEntryRead_keeps k) h
  · exact Inv.of_keeps (anchorPieceRead_keeps k) h
  · exact h

theorem readFailed_keeps {purpose : Purpose} {s₀ s : State} (h : Keeps s₀ s) :
    Keeps s₀ (readFailed purpose s) := by
  unfold readFailed
  repeat' first
      | with_reducible assumption
      | with_reducible apply activationSampled_keeps
      | with_reducible apply anchorPieceFailed_keeps
      | with_reducible apply bodyFailed_keeps
      | with_reducible apply chainReadFailed_keeps
      | with_reducible apply descriptorFailed_keeps
      | with_reducible apply directoryFailed_keeps
      | with_reducible apply loadReadFailed_keeps
      | with_reducible apply poolEntryFailed_keeps
      | with_reducible apply sampleAnswered_keeps
      | with_reducible apply takenSampled_keeps
      | with_reducible apply toneFailed_keeps
      | with_reducible apply writeBackReadFailed_keeps
      | dsimp only
      | split

theorem logSent_keeps {item : LinkItem} {s₀ s : State} (h : Keeps s₀ s) :
    Keeps s₀ (logSent item s) := by
  unfold logSent
  repeat' first
      | with_reducible assumption
      | ((with_reducible refine modPort_keeps ?_ ?_) <;> [exact fun _ => ⟨rfl, rfl⟩; skip])
      | dsimp only
      | split

theorem acceptRead_keeps {requester : Requester} {address length : Nat} {purpose : Purpose} {s₀ s : State}
    (hr : s.port.reads.length < Config.maxReads) (h : Keeps s₀ s) :
    Keeps s₀ (acceptRead requester address length purpose s) := by
  unfold acceptRead
  split
  · have held : Keeps s₀ (modPort (fun p =>
        { p with
          reads := p.reads ++ [⟨p.nextRead, requester, address, length, purpose, canSend s⟩]
          nextRead := p.nextRead + 1 }) s) :=
      reads_keeps (fun _ => rfl) (fun _ => by simpa using Nat.succ_le_of_lt hr) h
    dsimp only
    split
    · exact logSent_keeps held
    · exact held
  · exact readFailed_keeps h

theorem acceptWrite_keeps {address : Nat} {data : List Byte} {purpose : Purpose} {s₀ s : State} (h : Keeps s₀ s) :
    Keeps s₀ (acceptWrite address data purpose s) := by
  unfold acceptWrite
  repeat' first
      | with_reducible assumption
      | with_reducible apply logSent_keeps
      | with_reducible apply writeAccepted_keeps
      | with_reducible apply writeFailed_keeps
      | dsimp only
      | split

theorem acceptMessage_keeps {s₀ s : State} (h : Keeps s₀ s) :
    Keeps s₀ (acceptMessage s) := by
  unfold acceptMessage
  repeat' first
      | with_reducible assumption
      | with_reducible apply logSent_keeps
      | with_reducible apply writeFailed_keeps
      | dsimp only
      | split

theorem takeWaiting_keeps {requester : Requester} {s₀ s : State} (h : Keeps s₀ s) :
    Keeps s₀ (takeWaiting requester s) := by
  unfold takeWaiting
  repeat' first
      | with_reducible assumption
      | with_reducible apply entryGranted_keeps
      | ((with_reducible refine modPort_keeps ?_ ?_) <;> [exact fun _ => ⟨rfl, rfl⟩; skip])
      | with_reducible apply modWalker_keeps
      | dsimp only
      | split

/-- A request is accepted; a read only while fewer than 32 are in progress (R173). -/
theorem acceptRequest_keeps {requester : Requester} {q : Request} {s₀ s : State}
    (hr : isRead q = true → s.port.reads.length < Config.maxReads) (h : Keeps s₀ s) :
    Keeps s₀ (acceptRequest requester q s) := by
  unfold acceptRequest
  split
  · next hk => exact acceptRead_keeps (hr (by simp [isRead, hk])) h
  · exact acceptWrite_keeps h
  · exact acceptMessage_keeps h

theorem takeWaiting_reads (requester : Requester) (s : State) :
    (takeWaiting requester s).port.reads = s.port.reads := by
  unfold takeWaiting
  split
  · repeat' first
      | rfl
      | split
  · split
    · split
      · unfold entryGranted
        dsimp only
        split <;> rfl
      · rfl
    · rfl
  · rfl
  · rfl

theorem nextGrant_room {s : State} {requester : Requester} {q : Request} (e : nextGrant s = some (requester, q)) :
    isRead q = true → s.port.reads.length < Config.maxReads := by
  intro hq
  unfold nextGrant at e
  obtain ⟨a, -, ha⟩ := List.exists_of_findSome?_eq_some e
  simp only [Option.map_eq_some_iff] at ha
  obtain ⟨b, hb, hp⟩ := ha
  cases hp
  unfold grantable at hb
  have hf := (Option.filter_eq_some_iff.1 hb).2
  simpa [hq] using hf

theorem grantTurn_keeps {s₀ s : State} (h : Keeps s₀ s) : Keeps s₀ (grantTurn s) := by
  unfold grantTurn
  split
  · exact h
  · next requester q e =>
    refine acceptRequest_keeps (fun hq => ?_) (modPort_keeps (fun _ => ⟨rfl, rfl⟩) (takeWaiting_keeps h))
    simpa [takeWaiting_reads] using nextGrant_room e hq

theorem removeRead_keeps {number : Nat} {s₀ s : State} (h : Keeps s₀ s) : Keeps s₀ (removeRead number s) :=
  reads_keeps (fun _ => rfl) (fun hr => le_trans (List.length_filter_le _ _) hr) h

theorem failRead_keeps {r : ReadInProgress} {s₀ s : State} (h : Keeps s₀ s) :
    Keeps s₀ (failRead r s) := by
  unfold failRead
  repeat' first
      | with_reducible assumption
      | with_reducible apply readFailed_keeps
      | with_reducible apply removeRead_keeps
      | dsimp only
      | split

/-- The end of a read keeps the invariant (R175). -/
theorem completeRead_inv {number : Nat} {data : List Byte} {s : State} (h : Inv s) :
    Inv (completeRead number data s) := by
  unfold completeRead
  have k := Keeps.refl s
  split
  · exact h
  · split
    · exact h
    · split
      · exact readDone_inv (Inv.of_keeps (removeRead_keeps k) h)
      · exact Inv.of_keeps (failRead_keeps k) h

theorem errorRead_keeps {number : Nat} {s₀ s : State} (h : Keeps s₀ s) :
    Keeps s₀ (errorRead number s) := by
  unfold errorRead
  repeat' first
      | with_reducible assumption
      | with_reducible apply failRead_keeps
      | dsimp only
      | split

theorem timeoutRead_keeps {number : Nat} {s₀ s : State} (h : Keeps s₀ s) :
    Keeps s₀ (timeoutRead number s) := by
  unfold timeoutRead
  repeat' first
      | with_reducible assumption
      | with_reducible apply failRead_keeps
      | dsimp only
      | split

theorem firstDue_keeps {l : List (State → Option State)} {s₀ s t : State}
    (hl : ∀ f ∈ l, ∀ {t}, f s = some t → Keeps s₀ t) (e : firstDue l s = some t) : Keeps s₀ t := by
  obtain ⟨f, hf, hs⟩ := List.exists_of_findSome?_eq_some e
  exact hl f hf hs

/-- Every transition an event makes due keeps frame memory and the bounds. -/
theorem advance_keeps {s₀ s t : State} (h : Keeps s₀ s) (e : advance s = some t) : Keeps s₀ t := by
  refine firstDue_keeps (fun f hf t e => ?_) e
  simp only [List.mem_cons, List.not_mem_nil, or_false] at hf
  rcases hf with rfl | rfl | rfl | rfl | rfl | rfl | rfl | rfl | rfl | rfl | rfl | rfl | rfl | rfl | rfl
  · exact markAdvance_keeps h e
  · exact grantAdvance_keeps h e
  · exact triggerAdvance_keeps h e
  · exact plateAdvance_keeps h e
  · exact fallbackAdvance_keeps h e
  · exact mergeAdvance_keeps h e
  · exact resolveAdvance_keeps h e
  · exact workAdvance_keeps h e
  · exact setupAdvance_keeps h e
  · exact activationAdvance_keeps h e
  · exact finalAdvance_keeps h e
  · exact writerAdvance_keeps h e
  · exact controlAdvance_keeps h e
  · exact walkAdvance_keeps h e
  · exact busAdvance_keeps h e

theorem settleFor_keeps {n : Nat} {s₀ s : State} (h : Keeps s₀ s) : Keeps s₀ (settleFor n s) := by
  induction n generalizing s with
  | zero => exact h
  | succ n ih =>
    unfold settleFor
    split
    · exact h
    · next e => exact ih (advance_keeps h e)

/-- An event's consequences keep frame memory and the bounds (log 21). -/
theorem settle_keeps {s₀ s : State} (h : Keeps s₀ s) : Keeps s₀ (settle s) := settleFor_keeps h

theorem settle_inv {s : State} (h : Inv s) : Inv (settle s) := Inv.of_keeps (settle_keeps (Keeps.refl s)) h

/-- With no transition due an event has no consequences. -/
theorem settle_of_quiet {s : State} (h : advance s = none) : settle s = s := by
  unfold settle settleFuel settleFor
  rw [h]

end Sys2Proof.Machine
end

