-- ==== Sys2Proof/Laws/KeepsEvents.lean ====
section
/-! SUPPORT. The events keep frame memory and the bounds. -/

namespace Sys2Proof.Machine

set_option linter.unusedTactic false
set_option linter.unreachableTactic false

/-! ## Registers -/

theorem powerOn_inv (s : State) : Inv (powerOn s) :=
  ⟨⟨rfl, rfl, Nat.zero_le _, Nat.zero_le _, Nat.zero_le _, Nat.zero_le _, carriedOnce_reset,
      Nat.zero_le _⟩, reset_memory_wf⟩

theorem nudgePart_keeps {s₀ s : State} (h : Keeps s₀ s) :
    Keeps s₀ (nudgePart s) := by
  unfold nudgePart
  repeat' first
      | with_reducible assumption
      | with_reducible apply examineDry_keeps
      | with_reducible apply nudgeWalk_keeps
      | dsimp only
      | split

theorem writeRegister_keeps {offset width : Nat} {value : Word32} {s₀ s : State} (h : Keeps s₀ s) :
    Keeps s₀ (writeRegister offset width value s) := by
  unfold writeRegister
  repeat' first
      | assumption
      | apply writeAnchor_keeps
      | apply writeControl_keeps
      | apply writeStatus_keeps
      | apply writeEnables_keeps
      | apply nudgePart_keeps
      | split

/-! ## BusSend -/

theorem gapReached_keeps {s₀ s : State} (h : Keeps s₀ s) :
    Keeps s₀ (gapReached s) := by
  unfold gapReached
  repeat' first
      | with_reducible assumption
      | ((with_reducible refine modBus_keeps ?_ ?_) <;> [exact fun _ => le_rfl; skip])
      | dsimp only
      | split

theorem headWaited_keeps {s₀ s : State} (h : Keeps s₀ s) :
    Keeps s₀ (headWaited s) := by
  unfold headWaited
  repeat' first
      | with_reducible assumption
      | with_reducible apply attemptEnds_keeps
      | dsimp only
      | split

theorem arbitrationLost_keeps {s₀ s : State} (h : Keeps s₀ s) :
    Keeps s₀ (arbitrationLost s) := by
  unfold arbitrationLost
  repeat' first
      | with_reducible assumption
      | with_reducible apply attemptEnds_keeps
      | ((with_reducible refine modBus_keeps ?_ ?_) <;> [exact fun _ => le_rfl; skip])
      | dsimp only
      | split

theorem sendMismatch_keeps {s₀ s : State} (h : Keeps s₀ s) :
    Keeps s₀ (sendMismatch s) := by
  unfold sendMismatch
  repeat' first
      | with_reducible assumption
      | with_reducible apply attemptEnds_keeps
      | ((with_reducible refine modBus_keeps ?_ ?_) <;> [exact fun _ => le_rfl; skip])
      | dsimp only
      | split

theorem telegramOut_keeps {s₀ s : State} (h : Keeps s₀ s) :
    Keeps s₀ (telegramOut s) := by
  unfold telegramOut
  repeat' first
      | with_reducible assumption
      | with_reducible apply attemptEnds_keeps
      | with_reducible apply lineIdle_keeps
      | ((with_reducible refine modBus_keeps ?_ ?_) <;> [exact fun _ => le_rfl; skip])
      | dsimp only
      | split

theorem replyCame_keeps {bytes : List Byte} {s₀ s : State} (h : Keeps s₀ s) :
    Keeps s₀ (replyCame bytes s) := by
  unfold replyCame
  repeat' first
      | with_reducible assumption
      | with_reducible apply attemptEnds_keeps
      | with_reducible apply lineIdle_keeps
      | dsimp only
      | split

theorem slotSilent_keeps {s₀ s : State} (h : Keeps s₀ s) :
    Keeps s₀ (slotSilent s) := by
  unfold slotSilent
  repeat' first
      | with_reducible assumption
      | with_reducible apply attemptEnds_keeps
      | with_reducible apply lineIdle_keeps
      | dsimp only
      | split

theorem slotDisturbed_keeps {s₀ s : State} (h : Keeps s₀ s) :
    Keeps s₀ (slotDisturbed s) := by
  unfold slotDisturbed
  repeat' first
      | with_reducible assumption
      | with_reducible apply attemptEnds_keeps
      | with_reducible apply lineIdle_keeps
      | dsimp only
      | split

theorem restOver_keeps {number : Nat} {s₀ s : State} (h : Keeps s₀ s) :
    Keeps s₀ (restOver number s) := by
  unfold restOver
  repeat' first
      | with_reducible assumption
      | ((with_reducible refine modBus_keeps ?_ ?_) <;> [(first | exact fun _ => le_rfl | exact fun _ => (by simp [modRequest])); skip])
      | dsimp only
      | split

theorem brokenOff_keeps {s₀ s : State} (h : Keeps s₀ s) :
    Keeps s₀ (brokenOff s) := by
  unfold brokenOff
  repeat' first
      | with_reducible assumption
      | with_reducible apply attemptEnds_keeps
      | with_reducible apply lineIdle_keeps
      | dsimp only
      | split

theorem pulseOver_keeps {s₀ s : State} (h : Keeps s₀ s) :
    Keeps s₀ (pulseOver s) := by
  unfold pulseOver
  repeat' first
      | with_reducible assumption
      | with_reducible apply endClear_keeps
      | dsimp only
      | split

theorem trimPulse_keeps {delay : Nat} {s₀ s : State} (h : Keeps s₀ s) :
    Keeps s₀ (trimPulse delay s) := by
  unfold trimPulse
  repeat' first
      | with_reducible assumption
      | with_reducible apply trimMeasured_keeps
      | dsimp only
      | split

/-! ## BusReceive -/

theorem plateArrived_keeps {s₀ s : State} (h : Keeps s₀ s) :
    Keeps s₀ (plateArrived s) := by
  unfold plateArrived
  repeat' first
      | with_reducible assumption
      | with_reducible apply latePacket_keeps
      | with_reducible apply modPlate_keeps
      | with_reducible apply moveEnded_keeps
      | dsimp only
      | split

theorem plateJammed_keeps {s₀ s : State} (h : Keeps s₀ s) :
    Keeps s₀ (plateJammed s) := by
  unfold plateJammed
  repeat' first
      | with_reducible assumption
      | with_reducible apply failActive_keeps
      | dsimp only
      | split

theorem plateHot_keeps {s₀ s : State} (h : Keeps s₀ s) :
    Keeps s₀ (plateHot s) := by
  unfold plateHot
  repeat' first
      | with_reducible assumption
      | with_reducible apply failActive_keeps
      | dsimp only
      | split

theorem plateLidOpened_keeps {s₀ s : State} (h : Keeps s₀ s) :
    Keeps s₀ (plateLidOpened s) := by
  unfold plateLidOpened
  repeat' first
      | with_reducible assumption
      | with_reducible apply failActive_keeps
      | with_reducible apply modPlate_keeps
      | dsimp only
      | split

theorem plateLidClosed_keeps {s₀ s : State} (h : Keeps s₀ s) :
    Keeps s₀ (plateLidClosed s) := by
  unfold plateLidClosed
  repeat' first
      | with_reducible assumption
      | with_reducible apply modPlate_keeps
      | dsimp only
      | split

theorem deliverJammed_keeps {data : List Byte} {s₀ s : State} (h : Keeps s₀ s) :
    Keeps s₀ (deliverJammed data s) := by
  unfold deliverJammed
  repeat' first
      | with_reducible assumption
      | with_reducible apply plateJammed_keeps
      | with_reducible apply recordNotice_keeps
      | dsimp only
      | split

theorem deliverHot_keeps {data : List Byte} {s₀ s : State} (h : Keeps s₀ s) :
    Keeps s₀ (deliverHot data s) := by
  unfold deliverHot
  repeat' first
      | with_reducible assumption
      | with_reducible apply plateHot_keeps
      | with_reducible apply recordNotice_keeps
      | dsimp only
      | split

theorem deliverLidOpened_keeps {s₀ s : State} (h : Keeps s₀ s) :
    Keeps s₀ (deliverLidOpened s) := by
  unfold deliverLidOpened
  repeat' first
      | with_reducible assumption
      | with_reducible apply plateLidOpened_keeps
      | with_reducible apply recordNotice_keeps
      | dsimp only
      | split

theorem deliverLidClosed_keeps {s₀ s : State} (h : Keeps s₀ s) :
    Keeps s₀ (deliverLidClosed s) := by
  unfold deliverLidClosed
  repeat' first
      | with_reducible assumption
      | with_reducible apply plateLidClosed_keeps
      | with_reducible apply recordNotice_keeps
      | dsimp only
      | split

/-- A delivery that keeps frame memory and the bounds keeps them behind the acceptance. -/
theorem receiveNotice_keeps {deliver : State → State} {s₀ s : State}
    (hd : ∀ {t : State}, Keeps s₀ t → Keeps s₀ (deliver t)) (h : Keeps s₀ s) :
    Keeps s₀ (receiveNotice deliver s) := by
  unfold receiveNotice
  split
  · exact hd (acceptNotice_keeps h)
  · exact h

theorem noticeDelivery_keeps {bytes : List Byte} {deliver : State → State} {s₀ s : State}
    (e : noticeDelivery bytes = some deliver) (h : Keeps s₀ s) : Keeps s₀ (deliver s) := by
  unfold noticeDelivery at e
  dsimp only at e
  repeat' split at e
  all_goals cases e
  all_goals
    first
      | exact plateArrived_keeps h
      | exact deliverJammed_keeps h
      | exact deliverHot_keeps h
      | exact deliverLidOpened_keeps h
      | exact deliverLidClosed_keeps h

theorem lineTaken_keeps {s₀ s : State} (h : Keeps s₀ s) : Keeps s₀ (lineTaken s) := by
  unfold lineTaken
  split
  · exact modBus_keeps (fun _ => le_rfl) h
  · exact h

theorem telegramCame_keeps {bytes : List Byte} {s₀ s : State} (h : Keeps s₀ s) :
    Keeps s₀ (telegramCame bytes s) := by
  unfold telegramCame
  split
  · exact lineTaken_keeps h
  split
  · exact h
  split
  · exact lineIdle_keeps h
  split
  · exact lineIdle_keeps (wellReceived_keeps h)
  split
  · exact receiveNotice_keeps (fun k => noticeDelivery_keeps (by assumption) k) h
  · exact replyOnLine_keeps (wellReceived_keeps h)

theorem replyOver_keeps {s₀ s : State} (h : Keeps s₀ s) :
    Keeps s₀ (replyOver s) := by
  unfold replyOver
  repeat' first
      | with_reducible assumption
      | with_reducible apply lineIdle_keeps
      | dsimp only
      | split

theorem falseStart_keeps {s₀ s : State} (h : Keeps s₀ s) :
    Keeps s₀ (falseStart s) := by
  unfold falseStart
  repeat' first
      | with_reducible assumption
      | with_reducible apply lineIdle_keeps
      | dsimp only
      | split

/-! ## PlateTimers -/

theorem plateRecheck_keeps {s₀ s : State} (h : Keeps s₀ s) :
    Keeps s₀ (plateRecheck s) := by
  unfold plateRecheck
  repeat' first
      | with_reducible assumption
      | with_reducible apply askSample_keeps
      | with_reducible apply modPlate_keeps
      | dsimp only
      | split

theorem motionExpired_keeps {s₀ s : State} (h : Keeps s₀ s) :
    Keeps s₀ (motionExpired s) := by
  unfold motionExpired
  repeat' first
      | with_reducible assumption
      | with_reducible apply failActive_keeps
      | with_reducible apply modPlate_keeps
      | dsimp only
      | split

theorem exposureExpired_keeps {place : Nat} {s₀ s : State} (h : Keeps s₀ s) :
    Keeps s₀ (exposureExpired place s) := by
  unfold exposureExpired
  repeat' first
      | with_reducible assumption
      | with_reducible apply failActive_keeps
      | with_reducible apply modMember_keeps
      | dsimp only
      | split

theorem frameExpired_keeps {place : Nat} {s₀ s : State} (h : Keeps s₀ s) :
    Keeps s₀ (frameExpired place s) := by
  unfold frameExpired
  repeat' first
      | with_reducible assumption
      | with_reducible apply failActive_keeps
      | with_reducible apply modMember_keeps
      | dsimp only
      | split

/-! ## PixelLink -/

theorem ackArrived_keeps {which : Byte} {s₀ s : State} (h : Keeps s₀ s) :
    Keeps s₀ (ackArrived which s) := by
  unfold ackArrived
  repeat' first
      | with_reducible assumption
      | with_reducible apply ackPause_keeps
      | with_reducible apply ackResume_keeps
      | dsimp only
      | split

theorem ackTimeout_keeps {s₀ s : State} (h : Keeps s₀ s) :
    Keeps s₀ (ackTimeout s) := by
  unfold ackTimeout
  repeat' first
      | with_reducible assumption
      | with_reducible apply ackExpired_keeps
      | dsimp only
      | split

end Sys2Proof.Machine
end

