-- ==== Sys2Proof/Laws/Outside.lean ====
section
/-! SUPPORT. The operations that write frame memory, and a power-on reset: what lies outside the blocks stays, but for
the count of power-ons. -/

namespace Sys2Proof.Machine

/-- What keeps frame memory keeps what lies outside the blocks, whatever came before it. -/
theorem SameOutside.keeps {r s t : State} (h : SameOutside r s) (g : Keeps s t) : SameOutside r t :=
  h.trans g.outside

section
variable {r s : State}

theorem writeFrame_outside {base : Nat} {data : List Byte} (h : SameOutside r s) :
    SameOutside r (writeFrame base data s) :=
  h.trans ⟨rfl, rfl, rfl⟩

theorem writeFifoRow_outside {tag : Byte} {row : Nat} {samples : List Byte} (h : SameOutside r s) :
    SameOutside r (writeFifoRow tag row samples s) := by
  unfold writeFifoRow
  split
  · exact h
  · split
    · exact h
    · exact writeFrame_outside h

theorem fifoRowDone_outside (h : SameOutside r s) : SameOutside r (fifoRowDone s) := by
  unfold fifoRowDone
  split
  · have popped := fun (rest : List FifoItem) (u : State) =>
      (⟨rfl, rfl, rfl⟩ : SameOutside u (modIntake (fun i => { i with fifo := rest }) u))
    exact ((writeFifoRow_outside h).trans (popped _ _)).keeps (flowCheck_keeps (Keeps.refl _))
  · exact h

theorem loadRead_outside {n op offset : Nat} {data : List Byte} (h : SameOutside r s) :
    SameOutside r (loadRead n op offset data s) := by
  unfold loadRead
  split
  · exact h
  · split
    · exact h
    · have entered := fun (f : CacheEntry → CacheEntry) (u : State) =>
        (⟨rfl, rfl, rfl⟩ : SameOutside u (modEntry n f u))
      exact (writeFrame_outside h).trans (entered _ _)

theorem accumulateRows_outside {acc : Nat × Nat} {slot : Nat} {first : Bool} {n : Nat} (h : SameOutside r s) :
    SameOutside r (accumulateRows acc slot first n s) := by
  induction n with
  | zero => exact h
  | succ n ih => exact writeFrame_outside ih

theorem accumulateFrame_outside (h : SameOutside r s) : SameOutside r (accumulateFrame s) := by
  unfold accumulateFrame
  split
  · exact h
  · split
    · exact (accumulateRows_outside h).keeps (modPlate_keeps (modWork_keeps (moveSlots_keeps (Keeps.refl _))))
    · exact h

theorem buildRow_outside (h : SameOutside r s) : SameOutside r (buildRow s) := by
  unfold buildRow
  split
  · exact h
  · split
    · split
      · exact h
      · exact (writeFrame_outside h).keeps (modWork_keeps (presentWriteBack_keeps (Keeps.refl _)))
    · exact h

theorem readDone_outside {address : Nat} {purpose : Purpose} {data : List Byte} (h : SameOutside r s) :
    SameOutside r (readDone address purpose data s) := by
  unfold readDone
  split
  · exact h.keeps (chainLinkRead_keeps (Keeps.refl _))
  · exact h.keeps (chainHeaderRead_keeps (Keeps.refl _))
  · exact h.keeps (bodyRead_keeps (Keeps.refl _))
  · exact h.keeps (sampleAnswered_keeps (Keeps.refl _))
  · exact h.keeps (takenSampled_keeps (Keeps.refl _))
  · exact h.keeps (activationSampled_keeps (Keeps.refl _))
  · exact h.keeps (toneRead_keeps (Keeps.refl _))
  · exact h.keeps (directoryRead_keeps (Keeps.refl _))
  · exact loadRead_outside h
  · exact h.keeps (writeBackRead_keeps (Keeps.refl _))
  · exact h.keeps (descriptorRead_keeps (Keeps.refl _))
  · exact h.keeps (poolEntryRead_keeps (Keeps.refl _))
  · exact h.keeps (anchorPieceRead_keeps (Keeps.refl _))
  · exact h

theorem completeRead_outside {number : Nat} {data : List Byte} (h : SameOutside r s) :
    SameOutside r (completeRead number data s) := by
  unfold completeRead
  split
  · exact h
  · split
    · exact h
    · split
      · exact readDone_outside (h.keeps (removeRead_keeps (Keeps.refl _)))
      · exact h.keeps (failRead_keeps (Keeps.refl _))

theorem settle_outside (h : SameOutside r s) : SameOutside r (settle s) := h.keeps (settle_keeps (Keeps.refl _))

end

end Sys2Proof.Machine
end

