-- ==== Sys2Proof/Laws/Effects.lean ====
section
/-! SUPPORT. How a command's own effect is shown (`Effects`, `FailsActive`), what a failure of the ACTIVE order leaves,
and what the arbiter's turn, a refusal, a reply to the Plate Controller and LID_OPENED in SHUTDOWN come to. -/

namespace Sys2Proof.Machine

/-- The meaning settles a state: that state is the command's effect. -/
theorem Effects.of_settle {c : Instr} {s t u : State} (e : exec c s = .next (settle u)) (h : u = t) :
    Effects c s t := by
  subst h
  exact ⟨e, fun q => by rw [e, settle_of_quiet q]⟩

/-- A turn takes a request from its requester's list, the tone reads or the cache's rotation, and changes nothing
else. -/
theorem takeWaiting_eq (q : Requester) (s : State) :
    ∃ (walker cache writer control tones writeBack : List Request) (entries : List CacheEntry) (rotation : Nat),
      takeWaiting q s =
        { s with
          port := { s.port with
            walkerRequests := walker, cacheRequests := cache, writerRequests := writer, controlRequests := control }
          walker := { s.walker with toneReads := tones }
          cache := { s.cache with writeBack := writeBack, entries := entries, rotation := rotation } } := by
  unfold takeWaiting
  repeat' first
    | split
    | exact ⟨_, _, _, _, _, _, _, _, rfl⟩
    | (unfold entryGranted; dsimp only)

/-- A turn that grants a write which can be sent: the requester is told of the acceptance in the state it was sent
in. -/
theorem WriteDue.turn_eq {s : State} {q : Requester} {r : Request} {data : List Byte} (h : WriteDue s q r data) :
    grantTurn s = writeAccepted r.purpose (sentState s q r data) := by
  have sendable := h.sendable
  have inside := h.inside
  unfold grantTurn sentState
  rw [h.turn]
  dsimp only
  unfold acceptRequest
  rw [h.kind]
  dsimp only
  obtain ⟨walker, cache, writer, control, tones, writeBack, entries, rotation, e⟩ := takeWaiting_eq q s
  rw [e]
  unfold acceptWrite
  rw [if_pos]
  · rfl
  · exact Bool.and_eq_true_iff.mpr ⟨sendable, inside⟩

theorem WriteDue.effects {s t : State} {q : Requester} {r : Request} {data : List Byte} (h : WriteDue s q r data)
    (e : writeAccepted r.purpose (sentState s q r data) = t) : Effects .arbiterGrant s t :=
  .of_settle rfl (h.turn_eq.trans e)

section
variable (s : State) (q : Requester) (r : Request) (data : List Byte)

@[simp] theorem sentState_plate : (sentState s q r data).plate = s.plate := by
  obtain ⟨walker, cache, writer, control, tones, writeBack, entries, rotation, e⟩ := takeWaiting_eq q s
  simp only [sentState, e]

@[simp] theorem sentState_bus : (sentState s q r data).bus = s.bus := by
  obtain ⟨walker, cache, writer, control, tones, writeBack, entries, rotation, e⟩ := takeWaiting_eq q s
  simp only [sentState, e]

@[simp] theorem sentState_intake : (sentState s q r data).intake = s.intake := by
  obtain ⟨walker, cache, writer, control, tones, writeBack, entries, rotation, e⟩ := takeWaiting_eq q s
  simp only [sentState, e]

@[simp] theorem sentState_merge : (sentState s q r data).merge = s.merge := by
  obtain ⟨walker, cache, writer, control, tones, writeBack, entries, rotation, e⟩ := takeWaiting_eq q s
  simp only [sentState, e]

@[simp] theorem sentState_writer : (sentState s q r data).writer = s.writer := by
  obtain ⟨walker, cache, writer, control, tones, writeBack, entries, rotation, e⟩ := takeWaiting_eq q s
  simp only [sentState, e]

@[simp] theorem sentState_frame : (sentState s q r data).frame = s.frame := by
  obtain ⟨walker, cache, writer, control, tones, writeBack, entries, rotation, e⟩ := takeWaiting_eq q s
  simp only [sentState, e]

@[simp] theorem sentState_nextOp : (sentState s q r data).nextOp = s.nextOp := by
  obtain ⟨walker, cache, writer, control, tones, writeBack, entries, rotation, e⟩ := takeWaiting_eq q s
  simp only [sentState, e]

@[simp] theorem sentState_settings : (sentState s q r data).port.settings = s.port.settings := by
  obtain ⟨walker, cache, writer, control, tones, writeBack, entries, rotation, e⟩ := takeWaiting_eq q s
  simp only [sentState, e]

@[simp] theorem sentState_runState : (sentState s q r data).port.runState = s.port.runState := by
  obtain ⟨walker, cache, writer, control, tones, writeBack, entries, rotation, e⟩ := takeWaiting_eq q s
  simp only [sentState, e]

@[simp] theorem sentState_startStep : (sentState s q r data).port.startStep = s.port.startStep := by
  obtain ⟨walker, cache, writer, control, tones, writeBack, entries, rotation, e⟩ := takeWaiting_eq q s
  simp only [sentState, e]

@[simp] theorem sentState_taken : (sentState s q r data).walker.taken = s.walker.taken := by
  obtain ⟨walker, cache, writer, control, tones, writeBack, entries, rotation, e⟩ := takeWaiting_eq q s
  simp only [sentState, e]

@[simp] theorem sentState_active : (sentState s q r data).walker.active = s.walker.active := by
  obtain ⟨walker, cache, writer, control, tones, writeBack, entries, rotation, e⟩ := takeWaiting_eq q s
  simp only [sentState, e]

@[simp] theorem sentState_tilesPublished : (sentState s q r data).walker.tilesPublished = s.walker.tilesPublished := by
  obtain ⟨walker, cache, writer, control, tones, writeBack, entries, rotation, e⟩ := takeWaiting_eq q s
  simp only [sentState, e]

@[simp] theorem sentState_ordersFinished : (sentState s q r data).walker.ordersFinished = s.walker.ordersFinished := by
  obtain ⟨walker, cache, writer, control, tones, writeBack, entries, rotation, e⟩ := takeWaiting_eq q s
  simp only [sentState, e]

@[simp] theorem sentState_bank0 : (sentState s q r data).walker.bank0 = s.walker.bank0 := by
  obtain ⟨walker, cache, writer, control, tones, writeBack, entries, rotation, e⟩ := takeWaiting_eq q s
  simp only [sentState, e]

@[simp] theorem sentState_bank1 : (sentState s q r data).walker.bank1 = s.walker.bank1 := by
  obtain ⟨walker, cache, writer, control, tones, writeBack, entries, rotation, e⟩ := takeWaiting_eq q s
  simp only [sentState, e]

@[simp] theorem sentState_position : (sentState s q r data).walker.position = s.walker.position := by
  obtain ⟨walker, cache, writer, control, tones, writeBack, entries, rotation, e⟩ := takeWaiting_eq q s
  simp only [sentState, e]

@[simp] theorem sentState_phase : (sentState s q r data).walker.phase = s.walker.phase := by
  obtain ⟨walker, cache, writer, control, tones, writeBack, entries, rotation, e⟩ := takeWaiting_eq q s
  simp only [sentState, e]

@[simp] theorem sentState_recheckTimer : (sentState s q r data).walker.recheckTimer = s.walker.recheckTimer := by
  obtain ⟨walker, cache, writer, control, tones, writeBack, entries, rotation, e⟩ := takeWaiting_eq q s
  simp only [sentState, e]

@[simp] theorem sentState_enables : (sentState s q r data).port.enables = s.port.enables := by
  obtain ⟨walker, cache, writer, control, tones, writeBack, entries, rotation, e⟩ := takeWaiting_eq q s
  simp only [sentState, e]

@[simp] theorem sentState_causes : (sentState s q r data).port.causes = s.port.causes := by
  obtain ⟨walker, cache, writer, control, tones, writeBack, entries, rotation, e⟩ := takeWaiting_eq q s
  simp only [sentState, e]

@[simp] theorem sentState_work : (sentState s q r data).cache.work = s.cache.work := by
  obtain ⟨walker, cache, writer, control, tones, writeBack, entries, rotation, e⟩ := takeWaiting_eq q s
  simp only [sentState, e]

@[simp] theorem sentState_lru : (sentState s q r data).cache.lru = s.cache.lru := by
  obtain ⟨walker, cache, writer, control, tones, writeBack, entries, rotation, e⟩ := takeWaiting_eq q s
  simp only [sentState, e]

end

theorem messageIf_true (p : Port) : messageIf true p = if p.messageEnable then [interruptRequest] else [] := by
  simp [messageIf]

theorem messageIf_false (p : Port) : messageIf false p = [] := by simp [messageIf]

/-- Causes pending after a cause was set, where none was before. -/
theorem causesAny_raise (cause : Cause) (c e : CauseSet) (h : causesAny (causesAnd c e) = false) :
    causesAny (causesAnd (raiseCause cause c) e) = causeFlag e cause := by
  simp only [causesAny, causesAnd, Bool.or_eq_false_iff] at h
  obtain ⟨⟨⟨⟨⟨h1, h2⟩, h3⟩, h4⟩, h5⟩, h6⟩ := h
  cases cause <;> simp [causesAny, causesAnd, raiseCause, causeFlag, h1, h2, h3, h4, h5, h6]

/-- A cause's event: its flag, and the message where it makes the pending set not empty (R188, R189). -/
theorem setCause_eq (cause : Cause) (s : State) :
    setCause cause s =
      { s with port := { s.port with
          causes := raiseCause cause s.port.causes
          controlRequests := s.port.controlRequests ++
            messageIf (causeFlag s.port.enables cause && !causesPending s.port) s.port } } := by
  unfold setCause
  dsimp only
  cases hp : causesPending s.port
  · rw [show causesPending (modPort (fun p => { p with causes := raiseCause cause p.causes }) s).port =
        causeFlag s.port.enables cause from causesAny_raise cause s.port.causes s.port.enables hp]
    cases causeFlag s.port.enables cause
    · simp [modPort, messageIf]
    · cases hm : s.port.messageEnable <;>
        simp [modPort, messageIf, presentInterrupt, presentControl, hm, interruptRequest]
  · simp [modPort, messageIf]

theorem refuse_eq (s : State) : refuse s = refusedState s := setCause_eq .refused s

/-- A reply other than BUSY to a telegram of the Plate Controller is handed to it, the request gone (R154, R159). -/
theorem replyCame_plate {s : State} {r : BusRequest} {bytes data : List Byte} {code : Nat}
    (line : s.bus.line = .receiving) (attempt : s.bus.attempt = some r.number)
    (found : findRequest r.number s.bus = some r) (plate : r.requester = .plate)
    (reply : readReply r.command bytes = some (code, data)) (busy : code ≠ 4) :
    replyCame bytes s = plateResult (if code = 3 then .refused else .ok) code data
      { s with
        bus := removeRequest r.number
          { s.bus with line := .idle, gap := 0, breakOff := false, attempt := none, corruptRun := 0 } } := by
  have awaited : awaitingReply s.bus = some r.number := by simp [awaitingReply, line, attempt]
  have same : findRequest r.number (lineIdle s).bus = some r := found
  by_cases h3 : code = 3
  · simp [replyCame, awaited, found, reply, replyOutcome, h3, replyRefused, attemptEnds, corruptRunFull,
      outcomeFinal, reportResult, countOutcome, modBus, lineIdle, corruptAfter]
    simp only [lineIdle, modBus] at same
    rw [same]
    simp [plate]
  · simp [replyCame, awaited, found, reply, replyOutcome, h3, busy, replyBusy, replyRefused, attemptEnds,
      corruptRunFull, modBus, lineIdle, corruptAfter]
    simp only [lineIdle, modBus] at same
    rw [same]
    simp [outcomeFinal, reportResult, countOutcome, plate]

/-- A telegram's outcome changes the stand state alone (R5, R6, R9, R197). -/
theorem standAfter_eq (target : Nat) (command : Byte) (data : List Byte) (outcome : BusOutcome) (code : Nat)
    (reply : List Byte) (p : Plate) :
    ∃ lid opened change panel ring moving, standAfter target command data outcome code reply p =
      { p with
        lid := lid, openedSeen := opened, plateChange := change, panel := panel, ring := ring
        movingMark := moving } := by
  generalize h : standAfter target command data outcome code reply p = q
  unfold standAfter lidAfter lidOpen lidClosed movingAfterGoto movingAfterHalt at h
  repeat' split at h
  all_goals
    subst h
    exact ⟨_, _, _, _, _, _, rfl⟩

theorem standAfterStep_eq (step : PlateStep) (outcome : BusOutcome) (code : Nat) (reply : List Byte) (s : State) :
    ∃ lid opened change panel ring moving, standAfterStep step outcome code reply s =
      { s with plate := { s.plate with
          lid := lid, openedSeen := opened, plateChange := change, panel := panel, ring := ring
          movingMark := moving } } := by
  unfold standAfterStep
  split
  · rename_i target command data _
    obtain ⟨lid, opened, change, panel, ring, moving, e⟩ := standAfter_eq target command data outcome code reply s.plate
    exact ⟨lid, opened, change, panel, ring, moving, by simp only [modPlate, e]⟩
  · exact ⟨_, _, _, _, _, _, rfl⟩

/-! ## LID_OPENED in SHUTDOWN (R200, R201, log 49) -/

/-- Outside that case and outside a capture, LID_OPENED changes the lid and the mark alone (R5, R6, R8, R200). -/
theorem plateLidOpened_quiet {s : State} (hc : capturing s = false) (h : ∀ a, ¬ StarvedShutdown s a) :
    plateLidOpened s = modPlate lidOpen s := by
  unfold plateLidOpened
  split
  · next e =>
    simp only [hc, Bool.false_and, Bool.false_or, lidOpenedFurther, Bool.and_eq_true, decide_eq_true_eq,
      Option.any_eq_true] at e
    obtain ⟨phase, a, active, ⟨kind, primary⟩, -⟩ := e
    have ending : a.ending = true := by
      cases he : a.ending
      · exact absurd ⟨phase, active, kind, primary, he⟩ (h a)
      · rfl
    simp [failActive, active, ending]
  · rfl

/-- In that case LID_OPENED changes the lid and the mark alone, or hands LID_OPEN over with the counts as well. -/
theorem plateLidOpened_starved {s : State} {a : ActiveOrder} (h : StarvedShutdown s a) :
    plateLidOpened s = modPlate lidOpen s ∨
      plateLidOpened s = modActive (fun a => handCounts s.plate (recordCode .lidOpen a)) (modPlate lidOpen s) := by
  obtain ⟨phase, active, kind, -, ending⟩ := h
  unfold plateLidOpened
  split
  · exact .inr (by simp [failActive, active, ending, kind, passFailure, enterShutdown, phase, stoppingCode, lidOpen,
      handCounts])
  · exact .inl rfl

end Sys2Proof.Machine
end

