-- ==== Sys2Proof/Laws/Failure.lean ====
section
/-! SUPPORT. What the shared operations of a failure change, and that they change nothing else: slots, cache entries,
the entry into SHUTDOWN, a stopping failure, and a failure of the ACTIVE order as a whole. -/

namespace Sys2Proof.Machine

/-- A fold of updates of Frame Intake is one. -/
theorem foldl_intake {α : Type} {f : State → α → State} (hf : ∀ s a, ∃ i, f s a = { s with intake := i }) (l : List α)
    (s : State) : ∃ i, l.foldl f s = { s with intake := i } := by
  induction l generalizing s with
  | nil => exact ⟨s.intake, rfl⟩
  | cons a rest ih =>
    obtain ⟨i, hi⟩ := hf s a
    obtain ⟨j, hj⟩ := ih (f s a)
    exact ⟨j, by rw [List.foldl_cons, hj, hi]⟩

theorem cancelTag_eq (tag : Byte) (s : State) : ∃ i, cancelTag tag s = { s with intake := i } := by
  unfold cancelTag
  split
  · exact ⟨s.intake, rfl⟩
  · exact ⟨_, rfl⟩

theorem cancelSlot_eq (n : Nat) (s : State) : ∃ i, cancelSlot n s = { s with intake := i } := by
  unfold cancelSlot
  split
  · exact cancelTag_eq _ s
  · exact ⟨s.intake, rfl⟩

theorem releaseSlots_eq (slots : List Nat) (s : State) : ∃ i, releaseSlots slots s = { s with intake := i } :=
  foldl_intake (fun s n => by
    obtain ⟨i, hi⟩ := cancelSlot_eq n s
    exact ⟨_, by rw [releaseSlot, hi]; rfl⟩) slots s

theorem sweepSlots_eq (order : Nat) (s : State) : ∃ i, sweepSlots order s = { s with intake := i } :=
  foldl_intake (fun s n => by
    split
    · obtain ⟨i, hi⟩ := cancelSlot_eq n s
      exact ⟨_, by rw [hi]; rfl⟩
    · exact ⟨s.intake, rfl⟩) _ s

theorem moveSlots_eq (source : List SlotState) (target : SlotState) (slots : List Nat) (s : State) :
    ∃ table, moveSlots source target slots s = { s with intake := { s.intake with slots := table } } := by
  unfold moveSlots
  induction slots generalizing s with
  | nil => exact ⟨s.intake.slots, rfl⟩
  | cons n rest ih =>
    obtain ⟨table, h⟩ := ih (moveSlot source target n s)
    exact ⟨table, by rw [List.foldl_cons, h]; rfl⟩

/-- Entry into SHUTDOWN: the Plate Controller as R197 leaves it; Frame Intake and the Order Walker's requests change
too, and nothing else. -/
theorem enterShutdown_eq {s : State} (h : s.plate.phase ≠ .shutdown) :
    ∃ (intake : Intake) (requests : List Request), enterShutdown s =
      { s with
        plate := (stopCapture s).plate
        intake := { intake with reservation := none }
        port := { s.port with walkerRequests := requests } } := by
  obtain ⟨i, hi⟩ := releaseSlots_eq (heldSlots s) (stopCapture s)
  exact ⟨i, _, by rw [enterShutdown, if_neg h, hi]; rfl⟩

theorem mergeDispose_eq (s : State) :
    ∃ table, mergeDispose s =
      { s with
        intake := { s.intake with slots := table }
        merge := { s.merge with phase := .idle, queue := [], row := 0, stats := .zero }
        writer := { s.writer with
          queue := s.writer.queue ++ s.merge.queue.map fun t => .failureMark (disposedMark t) } } := by
  obtain ⟨i, hi⟩ := moveSlots_eq [.merging, .full] .free (s.merge.queue.flatMap tileSlots) s
  exact ⟨i, by rw [mergeDispose, hi]; rfl⟩

/-- A stopping failure reaches a Tile Writer that works for the order and is not yet past its rows: DISCARDING (R119).
-/
theorem writerDiscard_eq {s : State} (h : s.writer.params ≠ none) (hd : s.writer.phase ≠ .discarding)
    (hf : s.writer.phase ≠ .finishing) :
    writerDiscard s =
      { s with
        writer := { s.writer with
          phase := .discarding, dryTimer := none, recheckTimer := none, task := discardTask s.writer.task }
        port := { s.port with
          writerRequests :=
            s.port.writerRequests.filter fun r => !discardedPurpose (takeListed s.writer) r.purpose } } := by
  have hn : s.writer.params.isNone = false := by
    cases hp : s.writer.params
    · exact absurd hp h
    · rfl
  rw [writerDiscard, if_neg (by simp [hn, hd, hf])]
  rfl

theorem writerDiscard_else (s : State) :
    ∃ writer requests, writerDiscard s =
      { s with writer := writer, port := { s.port with writerRequests := requests } } := by
  unfold writerDiscard
  split
  · exact ⟨s.writer, s.port.writerRequests, rfl⟩
  · exact ⟨_, _, rfl⟩

theorem emptyEntries_eq (entries : List Nat) (s : State) :
    ∃ c, entries.foldl (fun s n => emptyEntry n s) s = { s with cache := c } := by
  induction entries generalizing s with
  | nil => exact ⟨s.cache, rfl⟩
  | cons n rest ih =>
    obtain ⟨c, hc⟩ := ih (emptyEntry n s)
    exact ⟨c, by rw [List.foldl_cons, hc]; rfl⟩

/-- The Reference Cache's work ends: the ACTIVE order's work is ended with it (R98). -/
theorem cacheEndWork_eq (s : State) :
    ∃ table cache ended, cacheEndWork s =
      { s with
        intake := { s.intake with slots := table }
        cache := cache
        walker := { s.walker with
          active := s.walker.active.map fun a => { a with workEnded := a.workEnded || ended } } } := by
  unfold cacheEndWork
  split
  · refine ⟨s.intake.slots, s.cache, false, ?_⟩
    have : (s.walker.active.map fun a => { a with workEnded := a.workEnded || false }) = s.walker.active := by
      cases s.walker.active <;> simp
    rw [this]
  · next w _ =>
    obtain ⟨i, hi⟩ := moveSlots_eq [.accumulator] .free (accumulatorList w.accumulators) s
    obtain ⟨j, hj⟩ := moveSlots_eq [.full] .free w.frameInHand.toList
      { s with intake := { s.intake with slots := i } }
    obtain ⟨c, hc⟩ := emptyEntries_eq w.install.toList { s with intake := { s.intake with slots := j } }
    refine ⟨j, { c with work := none, writeBack := [] }, true, ?_⟩
    dsimp only
    rw [hi, hj, hc]
    have : (s.walker.active.map fun a => { a with workEnded := a.workEnded || true }) =
        s.walker.active.map fun a => { a with workEnded := true } := by cases s.walker.active <;> simp
    rw [this]
    rfl

@[simp] theorem cacheEndWork_writer (s : State) : (cacheEndWork s).writer = s.writer := by
  obtain ⟨i, c, ended, h⟩ := cacheEndWork_eq s
  rw [h]

@[simp] theorem cacheEndWork_merge (s : State) : (cacheEndWork s).merge = s.merge := by
  obtain ⟨i, c, ended, h⟩ := cacheEndWork_eq s
  rw [h]

@[simp] theorem cacheEndWork_port (s : State) : (cacheEndWork s).port = s.port := by
  obtain ⟨i, c, ended, h⟩ := cacheEndWork_eq s
  rw [h]

/-- What a failure does in the blocks after the entry into SHUTDOWN: the ACTIVE order's work may end, and no other part
of the walker, the plate, the bus or run control changes. -/
theorem stopBlocks_eq (code : ResultCode) (kind : OrderKind) (s : State) :
    let stopped := if stoppingCode code then writerDiscard (mergeDispose s) else s
    ∃ table cache merge writer requests ended, (if kind = .reference then cacheEndWork stopped else stopped) =
      { s with
        walker := { s.walker with
          active := s.walker.active.map fun a => { a with workEnded := a.workEnded || ended } }
        port := { s.port with writerRequests := requests }
        intake := { s.intake with slots := table }, cache := cache, merge := merge, writer := writer } ∧
      (kind ≠ .reference → cache = s.cache) := by
  intro stopped
  have same : (s.walker.active.map fun a => { a with workEnded := a.workEnded || false }) = s.walker.active := by
    cases s.walker.active <;> simp
  have hs : ∃ table merge writer requests, stopped =
      { s with
        port := { s.port with writerRequests := requests }
        intake := { s.intake with slots := table }, merge := merge, writer := writer } := by
    by_cases hc : stoppingCode code = true
    · obtain ⟨i, hi⟩ := mergeDispose_eq s
      obtain ⟨w, rs, hw⟩ := writerDiscard_else (mergeDispose s)
      exact ⟨i, _, w, rs, by
        show (if stoppingCode code = true then _ else _) = _
        rw [if_pos hc, hw, hi]⟩
    · exact ⟨s.intake.slots, s.merge, s.writer, s.port.writerRequests, by simp only [stopped, hc]; rfl⟩
  obtain ⟨i, m, w, rs, hs⟩ := hs
  split
  · obtain ⟨j, c, ended, he⟩ := cacheEndWork_eq stopped
    exact ⟨j, c, m, w, rs, ended, by rw [he, hs], fun hk => absurd (by assumption) hk⟩
  · exact ⟨i, s.cache, m, w, rs, false, by rw [same, hs], fun _ => rfl⟩

/-- A failure of the ACTIVE order outside SHUTDOWN: its code recorded with the Plate Controller's counts, the Plate
Controller in SHUTDOWN as R197 leaves it; the run state, the settings, the bus and frame memory stay. -/
theorem failActive_eq {code : ResultCode} {s : State} {a : ActiveOrder} (ha : s.walker.active = some a)
    (he : a.ending = false) (h : s.plate.phase ≠ .shutdown) :
    ∃ (intake : Intake) (cache : Cache) (merge : Merge) (writer : Writer) (walkerRequests writerRequests : List Request)
      (ended : Bool), failActive code s =
      { s with
        walker := { s.walker with
          active := some { handCounts s.plate (recordCode code a) with
            workEnded := (handCounts s.plate (recordCode code a)).workEnded || ended } }
        plate := (stopCapture s).plate
        port := { s.port with walkerRequests := walkerRequests, writerRequests := writerRequests }
        intake := { intake with reservation := none }, cache := cache, merge := merge, writer := writer } ∧
      (a.kind ≠ .reference → cache = s.cache) := by
  obtain ⟨i, rs, hs⟩ := enterShutdown_eq
    (s := modActive (fun a => handCounts s.plate (recordCode code a)) s) (by simpa [modActive] using h)
  obtain ⟨j, c, m, w, ws, ended, hb, hcache⟩ := stopBlocks_eq code a.kind
    (enterShutdown (modActive (fun a => handCounts s.plate (recordCode code a)) s))
  refine ⟨{ i with slots := j }, c, m, w, rs, ws, ended, ?_, fun hk => by rw [hcache hk, hs]; rfl⟩
  unfold failActive
  rw [ha]
  dsimp only
  rw [he, if_neg (by decide)]
  unfold passFailure
  dsimp only at hb ⊢
  rw [hb, hs]
  simp only [modActive, modWalker, ha, Option.map_some]
  rfl

/-- The first failure of the ACTIVE order: its code and the counts with the order, the Plate Controller's capture stopped
(R28, R141, R197). -/
theorem failActive_canFail {code : ResultCode} {s : State} (h : CanFail s) :
    ∃ a : ActiveOrder, (failActive code s).walker.active = some a ∧ a.primary = code ∧
      a.retakes = s.plate.retakes ∧ a.lateEvents = s.plate.lateEvents ∧ a.thickness = s.plate.thickness.getD 0 ∧
      (failActive code s).plate = (stopCapture s).plate := by
  obtain ⟨hp, a, ha, he, hn⟩ := h
  obtain ⟨i, c, m, w, wr, ww, ended, e, -⟩ := failActive_eq (code := code) ha he hp
  rw [e]
  refine ⟨_, rfl, ?_, ?_⟩ <;> simp [handCounts, recordCode, hn]

/-- The codes after a failure: the first is the primary one, the next the secondary one (R201). -/
theorem recordCode_codes (code : ResultCode) (p : Plate) (a : ActiveOrder) :
    (handCounts p (recordCode code a)).primary = (if a.primary = .none then code else a.primary) ∧
      (handCounts p (recordCode code a)).secondary =
        (if a.primary ≠ .none ∧ a.secondary = .none then code else a.secondary) := by
  unfold recordCode handCounts
  by_cases h : a.primary = .none
  · simp [h]
  · by_cases h2 : a.secondary = .none <;> simp [h, h2]

/-- A further failure, in SHUTDOWN: its code recorded with the Plate Controller's counts; the Plate Controller, the bus,
the run state, the settings and frame memory stay (R197, R201). -/
theorem failActive_further {code : ResultCode} {s : State} {a : ActiveOrder} (ha : s.walker.active = some a)
    (he : a.ending = false) (h : s.plate.phase = .shutdown) :
    ∃ (table : List Slot) (cache : Cache) (merge : Merge) (writer : Writer) (writerRequests : List Request)
      (ended : Bool), failActive code s =
      { s with
        walker := { s.walker with
          active := some { handCounts s.plate (recordCode code a) with
            workEnded := (handCounts s.plate (recordCode code a)).workEnded || ended } }
        port := { s.port with writerRequests := writerRequests }
        intake := { s.intake with slots := table }, cache := cache, merge := merge, writer := writer } := by
  obtain ⟨j, c, m, w, ws, ended, hb, -⟩ := stopBlocks_eq code a.kind
    (enterShutdown (modActive (fun a => handCounts s.plate (recordCode code a)) s))
  refine ⟨j, c, m, w, ws, ended, ?_⟩
  unfold failActive
  rw [ha]
  dsimp only
  rw [he, if_neg (by decide)]
  unfold passFailure
  dsimp only at hb ⊢
  rw [hb, enterShutdown, if_pos (by simpa [modActive] using h)]
  simp only [modActive, modWalker, ha, Option.map_some]

/-- A stopping failure of the ACTIVE order stops the merge and puts a Tile Writer that works for it into DISCARDING, its
abandoned requests gone, one failure mark in its queue for each tile of the merge tile queue (R56, R119). -/
theorem failActive_stops {code : ResultCode} {s : State} {a : ActiveOrder} (ha : s.walker.active = some a)
    (he : a.ending = false) (h : s.plate.phase ≠ .shutdown) (hc : stoppingCode code = true)
    (hp : s.writer.params ≠ none) (hd : s.writer.phase ≠ .discarding) (hf : s.writer.phase ≠ .finishing) :
    (failActive code s).writer =
        { s.writer with
          queue := s.writer.queue ++ s.merge.queue.map fun t => .failureMark (disposedMark t)
          phase := .discarding, dryTimer := none, recheckTimer := none, task := discardTask s.writer.task } ∧
      (failActive code s).merge = { s.merge with phase := .idle, queue := [], row := 0, stats := .zero } ∧
      (failActive code s).port.writerRequests =
        s.port.writerRequests.filter fun r => !discardedPurpose (takeListed s.writer) r.purpose := by
  obtain ⟨i, rs, hs⟩ := enterShutdown_eq
    (s := modActive (fun a => handCounts s.plate (recordCode code a)) s) (by simpa [modActive] using h)
  obtain ⟨j, hm⟩ := mergeDispose_eq (enterShutdown (modActive (fun a => handCounts s.plate (recordCode code a)) s))
  have hw := writerDiscard_eq
    (s := mergeDispose (enterShutdown (modActive (fun a => handCounts s.plate (recordCode code a)) s)))
    (by rw [hm, hs]; exact hp) (by rw [hm, hs]; exact hd) (by rw [hm, hs]; exact hf)
  unfold failActive
  rw [ha]
  dsimp only
  rw [he, if_neg (by decide)]
  unfold passFailure
  dsimp only
  rw [if_pos hc, hw, hm, hs]
  split
  · exact ⟨cacheEndWork_writer _, cacheEndWork_merge _, congrArg Port.writerRequests (cacheEndWork_port _)⟩
  · exact ⟨rfl, rfl, rfl⟩

/-- A withdrawal of the ACTIVE order outside SHUTDOWN: the mark with the Plate Controller's counts, the Plate Controller
in SHUTDOWN as R197 leaves it; the Tile Writer and the Merge Engine go on, and no code is recorded (R196). -/
theorem withdrawActive_eq {s : State} {a : ActiveOrder} (ha : s.walker.active = some a) (he : a.ending = false)
    (h : s.plate.phase ≠ .shutdown) :
    ∃ (intake : Intake) (cache : Cache) (walkerRequests : List Request) (ended : Bool), withdrawActive s =
      { s with
        walker := { s.walker with
          active := some { handCounts s.plate a with withdrawn := true, workEnded := a.workEnded || ended } }
        plate := (stopCapture s).plate
        port := { s.port with walkerRequests := walkerRequests }
        intake := { intake with reservation := none }, cache := cache } := by
  obtain ⟨i, rs, hs⟩ := enterShutdown_eq
    (s := modActive (fun a => { handCounts s.plate a with withdrawn := true }) s) (by simpa [modActive] using h)
  unfold withdrawActive
  rw [ha]
  dsimp only
  rw [he, if_neg (by decide)]
  split
  · obtain ⟨j, c, ended, hc⟩ := cacheEndWork_eq
      (enterShutdown (modActive (fun a => { handCounts s.plate a with withdrawn := true }) s))
    refine ⟨{ i with slots := j }, c, rs, ended, ?_⟩
    rw [hc, hs]
    simp only [modActive, modWalker, ha, Option.map_some]
    rfl
  · refine ⟨i, s.cache, rs, false, ?_⟩
    rw [hs]
    simp only [modActive, modWalker, ha, Option.map_some, Bool.or_false]
    rfl

/-- The TAKEN order as its end leaves it: the setup abandoned, the code recorded, the final write begun (R136, R138). -/
def endedTaken (code : ResultCode) (o : TakenOrder) : TakenOrder :=
  { o with
    reading := none, bodyPieces := [], bodyAwaited := 0, roles := [], toResolve := [], recheckSample := none
    activationSample := none, primary := code, ending := true }

/-- The TAKEN order ends with a code, or none for a withdrawal: its requests that wait go, its tone load stops, and the
two writes of its final write are presented; nothing else changes (R136, R138). -/
theorem endTaken_eq {code : ResultCode} {state : Nat} {s : State} {o : TakenOrder} (h : s.walker.taken = some o)
    (he : o.ending = false) :
    endTaken code state s =
      { s with
        walker := { s.walker with
          taken := some (endedTaken code o)
          bank0 := stopBank o.number s.walker.bank0
          bank1 := stopBank o.number s.walker.bank1
          toneReads := s.walker.toneReads.filter fun r => !tonePurpose o.number r }
        port := { s.port with
          cacheRequests := s.port.cacheRequests.filter fun r =>
            !(match r.purpose with | .directoryEntry _ => true | _ => false)
          walkerRequests := (s.port.walkerRequests.filter fun r => !takenPurpose r.purpose) ++
            [writeRequest (o.address + 24) (finalGroup code .none o.clamps 0 0 0 0) .orderWrite,
              writeRequest o.address (leBytes 4 state) (.finalState true)] } } := by
  unfold endTaken
  rw [h]
  dsimp only
  rw [he, if_neg (by decide)]
  simp only [abandonSetup, stopLoad, modTaken, modWalker, dropCache, dropWalker, modPort, presentFinal, presentWalker,
    h, Option.map_some]
  rfl

end Sys2Proof.Machine
end

