-- ==== Sys2Proof/Laws/Intake.lean ====
section
/-! SUPPORT. What Frame Intake makes of a packet's bytes, of a FRAME_END's mark and of a change of the FIFO level (R65,
R68, R70). -/

namespace Sys2Proof.Machine

/-- A ROW packet goes by its first byte, the tag (R64). -/
theorem rowArrived_eq {bytes : List Byte} {tag : Byte} (h : bytes.head? = some tag) (s : State) :
    rowArrived bytes s = tagRowArrived tag bytes s := by
  cases bytes with
  | nil => simp at h
  | cons b rest =>
    simp only [List.head?_cons, Option.some.injEq] at h
    subst h
    rfl

/-- FRAME_END of a tag has arrived exactly when its mark stands in the FIFO (R68). -/
theorem frameEnded_iff (tag : Byte) (s : State) :
    frameEnded tag s = true ↔ ∃ count, .frameEnd tag count ∈ s.intake.fifo := by
  simp only [frameEnded, List.any_eq_true]
  constructor
  · rintro ⟨item, mem, same⟩
    cases item with
    | row _ _ _ => simp at same
    | frameEnd t count =>
      simp only [decide_eq_true_eq] at same
      subst same
      exact ⟨count, mem⟩
  · rintro ⟨count, mem⟩
    exact ⟨_, mem, by simp⟩

/-- What the flow protocol sends on a change of the level: PAUSE on a rise in FLOWING to 48 or more, RESUME in PAUSED
at 16 or less, nothing else (R70). -/
theorem flowCheck_eq (rose : Bool) (s : State) :
    flowCheck rose s =
      { s with
        intake :=
          if s.intake.flow = .flowing ∧ rose = true ∧ 48 ≤ fifoLevel s then
            { s.intake with
              flow := .pauseSent, sends := 1, ackTimer := some 10, sent := s.intake.sent ++ [.pause] }
          else if s.intake.flow = .paused ∧ fifoLevel s ≤ 16 then
            { s.intake with
              flow := .resumeSent, sends := 1, ackTimer := some 10, sent := s.intake.sent ++ [.resume] }
          else s.intake } := by
  unfold flowCheck
  cases h : s.intake.flow
  · by_cases high : rose = true ∧ 48 ≤ fifoLevel s
    · simp [high, Config.pauseMark, sendPause, sendBack, modIntake, Config.ackLimit]
    · have quiet : (rose && decide (Config.pauseMark ≤ fifoLevel s)) = false := by
        rw [Bool.and_eq_false_iff, decide_eq_false_iff_not, Config.pauseMark, ← Bool.not_eq_true, ← not_and_or]
        exact high
      simp [high, quiet]
  · simp
  · by_cases low : fifoLevel s ≤ 16
    · simp [low, Config.resumeMark, sendResume, sendBack, modIntake, Config.ackLimit]
    · simp [low, Config.resumeMark]
  · simp

end Sys2Proof.Machine
end

