-- ==== Sys2Proof/Laws/Merge.lean ====
section
/-! SUPPORT. What a computed row holds at each place: the values read from frame memory, the decisions of its pixels,
and the bytes of each plane (R34, R44 to R48). -/

namespace Sys2Proof.Machine

/-! ## Values and planes by place -/

theorem values16_getElem? (bytes : List Byte) (i : Nat) {a b : Byte} (ha : bytes[2 * i]? = some a)
    (hb : bytes[2 * i + 1]? = some b) : (values16 bytes)[i]? = some (a.toNat + 256 * b.toNat) := by
  induction i generalizing bytes with
  | zero =>
    match bytes, ha, hb with
    | _ :: _ :: _, ha, hb => simp_all [values16]
  | succ i ih =>
    match bytes, ha, hb with
    | _ :: _ :: rest, ha, hb => simpa [values16] using ih rest ha hb
    | [_], ha, _ => simp at ha
    | [], ha, _ => simp at ha

theorem values16_length (n : Nat) (bytes : List Byte) (h : bytes.length = 2 * n) : (values16 bytes).length = n := by
  induction n generalizing bytes with
  | zero =>
    rw [List.length_eq_zero_iff.mp h]
    rfl
  | succ n ih =>
    match bytes, h with
    | _ :: _ :: rest, h => simpa [values16] using ih rest (by simpa [Nat.mul_add] using h)
    | [_], h => simp [Nat.mul_add] at h
    | [], h => simp at h

theorem rowValues_length (s : State) (base row : Nat) : (rowValues s base row).length = 4096 :=
  values16_length 4096 _ (frameBytes_length s _ _)

/-- Value `c` of a row is the little-endian 16-bit value of its two bytes in frame memory (R66). -/
theorem rowValues_getElem? {s : State} (wf : Memory.wf s.frame) (base row : Nat) {c : Nat} (h : c < 4096) :
    let byte := fun a : Nat => (memoryRead s.frame a).getD (Config.undefinedFrameByte s.powerOns a)
    (rowValues s base row)[c]? =
      some ((byte (base + row * 8192 + 2 * c)).toNat + 256 * (byte (base + row * 8192 + 2 * c + 1)).toNat) := by
  have low := frameBytes_getElem? wf (base + row * Config.rowBytes) (n := Config.rowBytes) (i := 2 * c)
    (by simp only [Config.rowBytes]; omega)
  have high := frameBytes_getElem? wf (base + row * Config.rowBytes) (n := Config.rowBytes) (i := 2 * c + 1)
    (by simp only [Config.rowBytes]; omega)
  exact values16_getElem? _ c low high

/-- Bytes laid out in pairs: the two of place `i`. -/
theorem flatMap_pair_getElem? {α : Type} (f : α → List Byte) (g h : α → Byte) (hf : ∀ r, f r = [g r, h r])
    (l : List α) (i : Nat) :
    (l.flatMap f)[2 * i]? = l[i]?.map g ∧ (l.flatMap f)[2 * i + 1]? = l[i]?.map h := by
  induction l generalizing i with
  | nil => simp
  | cons r rest ih =>
    rw [List.flatMap_cons, hf r]
    cases i with
    | zero => simp
    | succ i => simpa [Nat.mul_add] using ih i

theorem flatMap_pair_length {α : Type} (f : α → List Byte) (hf : ∀ r, (f r).length = 2) (l : List α) :
    (l.flatMap f).length = 2 * l.length := by
  induction l with
  | nil => rfl
  | cons r rest ih => simp only [List.flatMap_cons, List.length_append, hf, ih, List.length_cons]; omega

@[simp] theorem mirrored_length {α : Type} (mirror : Bool) (row : List α) :
    (mirrored mirror row).length = row.length := by
  cases mirror <;> simp [mirrored]

/-- Position `i` holds column `i`, or under mirror column 4095 − i (R48). -/
theorem mirrored_getElem? {α : Type} (mirror : Bool) {row : List α} (full : row.length = 4096) {i : Nat}
    (h : i < 4096) : (mirrored mirror row)[i]? = row[if mirror then 4095 - i else i]? := by
  cases mirror
  · rfl
  · simp only [mirrored, if_true]
    rw [List.getElem?_reverse (by omega), full]

/-! ## A row's decisions -/

theorem decideRow_length (b : MergeBounds) (flatDose : Nat) (flats : List Nat) (members : List MemberRow) :
    (decideRow b flatDose flats members).length = flats.length := by
  induction flats generalizing members with
  | nil => rfl
  | cons f rest ih => simp [decideRow, ih]

/-- A member's row after `c` pixels. -/
def MemberRow.after (c : Nat) (m : MemberRow) : MemberRow :=
  { m with samples := m.samples.drop c, darks := m.darks.drop c }

/-- The decision at column `c` is the pixel's own (R35 to R39). -/
theorem decideRow_getElem? (b : MergeBounds) (flatDose : Nat) {flats : List Nat} (members : List MemberRow) {c f : Nat}
    (h : flats[c]? = some f) :
    (decideRow b flatDose flats members)[c]? =
      some (decidePixel b (clampReference f) flatDose (members.map fun m => (m.after c).pixel)) := by
  induction c generalizing flats members with
  | zero =>
    match flats, h with
    | _ :: _, h =>
      simp only [List.getElem?_cons_zero, Option.some.injEq] at h
      subst h
      simp [decideRow, MemberRow.after]
  | succ c ih =>
    match flats, h with
    | _ :: rest, h =>
      have := ih (members.map MemberRow.next) (flats := rest) (by simpa using h)
      simp only [decideRow, List.getElem?_cons_succ, this, List.map_map]
      congr 3
      funext m
      simp [MemberRow.after, MemberRow.next, MemberRow.pixel]

theorem headD_drop {l : List Nat} {c v : Nat} (h : l[c]? = some v) : (l.drop c).headD 0 = v := by
  rw [List.headD_eq_head?_getD, List.head?_drop, h]
  rfl

/-! ## Mask bytes -/

theorem bitsNat_lt (bits : List Bool) : bitsNat bits < 2 ^ bits.length := by
  induction bits with
  | nil => simp [bitsNat]
  | cons b rest ih =>
    simp only [bitsNat, List.length_cons, Nat.pow_succ]
    have := Bool.toNat_le b
    omega

theorem bitsNat_testBit (bits : List Bool) (i : Nat) : (bitsNat bits).testBit i = bits.getD i false := by
  induction bits generalizing i with
  | nil => simp [bitsNat]
  | cons b rest ih =>
    cases i with
    | zero => cases b <;> simp [bitsNat, Nat.testBit_zero, Nat.add_mod]
    | succ i =>
      rw [Nat.testBit_succ]
      have : (bitsNat (b :: rest)) / 2 = bitsNat rest := by
        simp only [bitsNat]
        have := Bool.toNat_le b
        omega
      rw [this, ih]
      rfl

theorem packMask_length (n : Nat) (bits : List Bool) : (packMask n bits).length = n := by
  induction n generalizing bits with
  | zero => rfl
  | succ n ih => simp [packMask, ih]

/-- Bit `i mod 8` of byte `i div 8` is mask bit `i` (R48). -/
theorem packMask_bit {n : Nat} {bits : List Bool} {i : Nat} {v : Bool} (h : i / 8 < n) (hv : bits[i]? = some v) :
    ((packMask n bits)[i / 8]?).map (fun b => b.getLsbD (i % 8)) = some v := by
  induction n generalizing bits i with
  | zero => omega
  | succ n ih =>
    by_cases hi : i < 8
    · rw [Nat.div_eq_of_lt hi, Nat.mod_eq_of_lt hi]
      simp only [packMask, List.getElem?_cons_zero, Option.map_some, BitVec.getLsbD_ofNat, hi,
        decide_true, Bool.true_and, bitsNat_testBit, List.getD_eq_getElem?_getD, List.getElem?_take, if_true, hv,
        Option.getD_some]
    · obtain ⟨k, rfl⟩ : ∃ k, i = k + 8 := ⟨i - 8, by omega⟩
      have step : (k + 8) / 8 = k / 8 + 1 := by omega
      have same : (k + 8) % 8 = k % 8 := by omega
      rw [step, same]
      simp only [packMask, List.getElem?_cons_succ]
      refine ih (by omega) ?_
      rw [List.getElem?_drop, Nat.add_comm]
      exact hv

end Sys2Proof.Machine
end

