-- ==== Sys2Proof/Laws/PerInstr.lean ====
section
/-! SUPPORT. For each command: its operands are well formed exactly when its row of the table admits them, the row's
words said again without the checks of WellFormed.lean. -/

namespace Sys2Proof.Laws

open Sys2Proof

/-- The operands that a command's row admits (10.1, 10.9, 10.11, R149, R171, R203, R206). -/
def WellFormedness.RowAdmits : Instr → Prop
  | .controlSeveralCommands value =>
    value.getLsbD 3 = false ∧
      (value.getLsbD 0 = true ∧ value.getLsbD 1 = true ∨ value.getLsbD 0 = true ∧ value.getLsbD 2 = true ∨
        value.getLsbD 1 = true ∧ value.getLsbD 2 = true)
  | .otherRegisterWrite offset width value =>
    width ≠ 4 ∨ offset ∉ [0x00, 0x04, 0x08, 0x0C, 0x10, 0x14] ∨
      offset = 0x08 ∧ ∀ k < 4, value.getLsbD k = false
  | .readCompletion _ data => data.length ≤ 512
  | .replyReceived bytes => 3 ≤ bytes.length
  | .telegramReceived bytes => bytes = [] ∨ 5 ≤ bytes.length
  | .trimPulseMeasured delay => 10 ∣ delay
  | .exposureTimerExpiry member => member < 5
  | .frameTimerExpiry member => member < 5
  | .rowPacket tag row samples check =>
    let bytes := tag ++ row ++ samples ++ check
    tag = bytes.take 1 ∧ row = (bytes.drop 1).take 2 ∧ samples = (bytes.drop 3).take 7168 ∧ check = bytes.drop 7171
  | .unknownPacket bytes =>
    (∀ tag, bytes ≠ [1, tag]) ∧ bytes.head? ≠ some 2 ∧ (∀ tag high low, bytes ≠ [3, tag, high, low]) ∧
      ∀ which, bytes ≠ [4, which]
  | _ => True

def WellFormedness.Statement (i : Instr) : Prop := i.wellFormed = true ↔ WellFormedness.RowAdmits i

namespace WellFormedness

theorem namesSeveral_iff (value : Word32) : Statement (.controlSeveralCommands value) := by
  have h : ∀ a b c d : Bool,
      (decide (2 ≤ a.toNat + b.toNat + c.toNat) && !d) = true ↔
        d = false ∧ (a = true ∧ b = true ∨ a = true ∧ c = true ∨ b = true ∧ c = true) := by decide
  exact h (value.getLsbD 0) (value.getLsbD 1) (value.getLsbD 2) (value.getLsbD 3)

theorem isRegisterAccess_iff (offset width : Nat) :
    isRegisterAccess offset width = true ↔ width = 4 ∧ offset ∈ [0x00, 0x04, 0x08, 0x0C, 0x10, 0x14] := by
  simp only [isRegisterAccess, List.mem_cons, List.not_mem_nil, Bool.and_eq_true, decide_eq_true_eq, or_false]
  omega

theorem writesNothing_iff (offset width : Nat) (value : Word64) :
    Statement (.otherRegisterWrite offset width value) := by
  have h := isRegisterAccess_iff offset width
  have hn : (namedCommands (value.setWidth 32) = 0 ∧ value.getLsbD 3 = false) ↔
      ∀ k < 4, value.getLsbD k = false := by
    have hb : ∀ k < 3, (value.setWidth 32).getLsbD k = value.getLsbD k := by
      intro k hk
      simp only [BitVec.getLsbD_setWidth, Bool.and_eq_right_iff_imp, decide_eq_true_eq]
      omega
    simp only [namedCommands, hb 0 (by omega), hb 1 (by omega), hb 2 (by omega)]
    constructor
    · rintro ⟨hs, h3⟩ k hk
      interval_cases k
      · cases h0 : value.getLsbD 0 <;> simp_all
      · cases h0 : value.getLsbD 1 <;> simp_all
      · cases h0 : value.getLsbD 2 <;> simp_all
      · exact h3
    · intro g
      rw [g 0 (by omega), g 1 (by omega), g 2 (by omega)]
      exact ⟨rfl, g 3 (by omega)⟩
  simp only [Statement, RowAdmits, Instr.wellFormed, writesNothing, Bool.or_eq_true, Bool.and_eq_true,
    Bool.not_eq_true', decide_eq_true_eq, ← hn, and_assoc]
  rw [← Bool.not_eq_true, h]
  tauto

/-- A list that fills its place, or has nothing after it, is cut off there again. -/
theorem cut_append (a rest : List Byte) (n : Nat) (fits : a.length ≤ n) (full : rest.length = 0 ∨ a.length = n) :
    (a ++ rest).take n = a ∧ (a ++ rest).drop n = rest := by
  rcases full with h | h
  · rw [List.length_eq_zero_iff] at h
    subst h
    simp [fits]
  · subst h
    simp

theorem rowPacketForm_iff (tag row samples check : List Byte) : Statement (.rowPacket tag row samples check) := by
  simp only [Statement, RowAdmits, Instr.wellFormed, rowPacketForm, Bool.and_eq_true, Bool.or_eq_true,
    decide_eq_true_eq, List.isEmpty_iff_length_eq_zero, List.append_assoc]
  have size : Config.packedRowBytes = 7168 := rfl
  rw [size]
  constructor
  · rintro ⟨⟨⟨⟨⟨ht, hr⟩, hs⟩, hrow⟩, hsamples⟩, hcheck⟩
    have first := cut_append tag (row ++ (samples ++ check)) 1 ht (by simp only [List.length_append]; omega)
    have second := cut_append row (samples ++ check) 2 hr (by simp only [List.length_append]; omega)
    have third := cut_append samples check 7168 hs (by omega)
    have dropped (n : Nat) : (tag ++ (row ++ (samples ++ check))).drop (1 + n) =
        (row ++ (samples ++ check)).drop n := by
      rw [← List.drop_drop, first.2]
    refine ⟨first.1.symm, ?_, ?_, ?_⟩
    · rw [first.2, second.1]
    · rw [dropped 2, second.2, third.1]
    · rw [dropped (2 + 7168), ← List.drop_drop, second.2, third.2]
  · rintro ⟨h1, h2, h3, h4⟩
    have l1 := congrArg List.length h1
    have l2 := congrArg List.length h2
    have l3 := congrArg List.length h3
    have l4 := congrArg List.length h4
    simp only [List.length_take, List.length_drop, List.length_append] at l1 l2 l3 l4
    omega

theorem unknownPacketForm_iff (bytes : List Byte) : Statement (.unknownPacket bytes) := by
  simp only [Statement, RowAdmits, Instr.wellFormed]
  rcases bytes with _ | ⟨b, rest⟩
  · simp [unknownPacketForm]
  · by_cases h1 : b = 1
    · subst h1
      simp [unknownPacketForm, List.length_eq_one_iff]
    · by_cases h3 : b = 3
      · subst h3
        rcases rest with _ | ⟨x, _ | ⟨y, _ | ⟨z, _ | ⟨w, rest⟩⟩⟩⟩ <;> simp [unknownPacketForm]
      · by_cases h4 : b = 4
        · subst h4
          simp [unknownPacketForm, List.length_eq_one_iff]
        · have hc : ∀ (k : Byte) (l : List Byte), ¬b = k → b :: rest ≠ k :: l :=
            fun k l hk he => hk (List.cons.inj he).1
          simp only [unknownPacketForm, knownPacketType, h1, h3, h4, if_false, decide_false, Bool.false_or,
            Bool.or_false, List.head?_cons, Bool.not_eq_true', decide_eq_false_iff_not]
          exact ⟨fun h => ⟨fun _ => hc 1 _ h1, by simpa using h, fun _ _ _ => hc 3 _ h3, fun _ => hc 4 _ h4⟩,
            fun h => by simpa using h.2.1⟩

theorem start : Statement .start := by simp [Statement, RowAdmits, Instr.wellFormed]

theorem stop : Statement .stop := by simp [Statement, RowAdmits, Instr.wellFormed]

theorem abort : Statement .abort := by simp [Statement, RowAdmits, Instr.wellFormed]

theorem reset : Statement .reset := by simp [Statement, RowAdmits, Instr.wellFormed]

theorem controlSeveralCommands (value : Word32) : Statement (.controlSeveralCommands value) := namesSeveral_iff value

theorem anchorRegisterWrite (high : Bool) (value : Word32) : Statement (.anchorRegisterWrite high value) := by
  simp [Statement, RowAdmits, Instr.wellFormed]

theorem statusWrite (value : Word32) : Statement (.statusWrite value) := by
  simp [Statement, RowAdmits, Instr.wellFormed]

theorem causeEnableWrite (value : Word32) : Statement (.causeEnableWrite value) := by
  simp [Statement, RowAdmits, Instr.wellFormed]

theorem nudge (value : Word32) : Statement (.nudge value) := by simp [Statement, RowAdmits, Instr.wellFormed]

theorem otherRegisterWrite (offset width : Nat) (value : Word64) :
    Statement (.otherRegisterWrite offset width value) :=
  writesNothing_iff offset width value

theorem powerOnReset : Statement .powerOnReset := by simp [Statement, RowAdmits, Instr.wellFormed]

theorem functionReset : Statement .functionReset := by simp [Statement, RowAdmits, Instr.wellFormed]

theorem arbiterGrant : Statement .arbiterGrant := by simp [Statement, RowAdmits, Instr.wellFormed]

theorem readCompletion (read : Nat) (data : List Byte) : Statement (.readCompletion read data) :=
  decide_eq_true_iff

theorem readErrorCompletion (read : Nat) : Statement (.readErrorCompletion read) := by
  simp [Statement, RowAdmits, Instr.wellFormed]

theorem readCompletionTimeout (read : Nat) : Statement (.readCompletionTimeout read) := by
  simp [Statement, RowAdmits, Instr.wellFormed]

theorem walkRecheckExpiry : Statement .walkRecheckExpiry := by simp [Statement, RowAdmits, Instr.wellFormed]

theorem frameAccumulated : Statement .frameAccumulated := by simp [Statement, RowAdmits, Instr.wellFormed]

theorem gapComplete : Statement .gapComplete := by simp [Statement, RowAdmits, Instr.wellFormed]

theorem headWaitTimeout : Statement .headWaitTimeout := by simp [Statement, RowAdmits, Instr.wellFormed]

theorem arbitrationLost : Statement .arbitrationLost := by simp [Statement, RowAdmits, Instr.wellFormed]

theorem sendMismatch : Statement .sendMismatch := by simp [Statement, RowAdmits, Instr.wellFormed]

theorem telegramSent : Statement .telegramSent := by simp [Statement, RowAdmits, Instr.wellFormed]

theorem replyReceived (bytes : List Byte) : Statement (.replyReceived bytes) := by
  simp [Statement, RowAdmits, Instr.wellFormed, replyWhole]

theorem replySlotTimeout : Statement .replySlotTimeout := by simp [Statement, RowAdmits, Instr.wellFormed]

theorem slotDominantEarly : Statement .slotDominantEarly := by simp [Statement, RowAdmits, Instr.wellFormed]

theorem busyRestExpiry (request : Nat) : Statement (.busyRestExpiry request) := by
  simp [Statement, RowAdmits, Instr.wellFormed]

theorem breakOff : Statement .breakOff := by simp [Statement, RowAdmits, Instr.wellFormed]

theorem telegramReceived (bytes : List Byte) : Statement (.telegramReceived bytes) := by
  simp [Statement, RowAdmits, Instr.wellFormed, telegramWhole]

theorem arrived (x y : Word32) : Statement (.arrived x y) := by simp [Statement, RowAdmits, Instr.wellFormed]

theorem jammed (x y : Word32) : Statement (.jammed x y) := by simp [Statement, RowAdmits, Instr.wellFormed]

theorem hot (temperature : Word16) : Statement (.hot temperature) := by simp [Statement, RowAdmits, Instr.wellFormed]

theorem lidOpened : Statement .lidOpened := by simp [Statement, RowAdmits, Instr.wellFormed]

theorem lidClosed : Statement .lidClosed := by simp [Statement, RowAdmits, Instr.wellFormed]

theorem ownReplySent : Statement .ownReplySent := by simp [Statement, RowAdmits, Instr.wellFormed]

theorem falseStart : Statement .falseStart := by simp [Statement, RowAdmits, Instr.wellFormed]

theorem noisePulse : Statement .noisePulse := by simp [Statement, RowAdmits, Instr.wellFormed]

theorem clearPulseEnd : Statement .clearPulseEnd := by simp [Statement, RowAdmits, Instr.wellFormed]

theorem trimPulseMeasured (delay : Nat) : Statement (.trimPulseMeasured delay) := by
  simp [Statement, RowAdmits, Instr.wellFormed, Nat.dvd_iff_mod_eq_zero]

theorem plateRecheckExpiry : Statement .plateRecheckExpiry := by simp [Statement, RowAdmits, Instr.wellFormed]

theorem motionTimerExpiry : Statement .motionTimerExpiry := by simp [Statement, RowAdmits, Instr.wellFormed]

theorem exposureTimerExpiry (member : Nat) : Statement (.exposureTimerExpiry member) := by
  simp [Statement, RowAdmits, Instr.wellFormed]

theorem frameTimerExpiry (member : Nat) : Statement (.frameTimerExpiry member) := by
  simp [Statement, RowAdmits, Instr.wellFormed]

theorem exposedPacket (tag : Byte) : Statement (.exposedPacket tag) := by
  simp [Statement, RowAdmits, Instr.wellFormed]

theorem rowPacket (tag row samples check : List Byte) : Statement (.rowPacket tag row samples check) :=
  rowPacketForm_iff tag row samples check

theorem frameEndPacket (tag : Byte) (count : Word16) : Statement (.frameEndPacket tag count) := by
  simp [Statement, RowAdmits, Instr.wellFormed]

theorem fifoRowWritten : Statement .fifoRowWritten := by simp [Statement, RowAdmits, Instr.wellFormed]

theorem ackPacket (which : Byte) : Statement (.ackPacket which) := by simp [Statement, RowAdmits, Instr.wellFormed]

theorem ackTimerExpiry : Statement .ackTimerExpiry := by simp [Statement, RowAdmits, Instr.wellFormed]

theorem unknownPacket (bytes : List Byte) : Statement (.unknownPacket bytes) := unknownPacketForm_iff bytes

theorem rowComputed : Statement .rowComputed := by simp [Statement, RowAdmits, Instr.wellFormed]

theorem dryRecheckExpiry : Statement .dryRecheckExpiry := by simp [Statement, RowAdmits, Instr.wellFormed]

theorem dryTimerExpiry : Statement .dryTimerExpiry := by simp [Statement, RowAdmits, Instr.wellFormed]

theorem referenceRowBuilt : Statement .referenceRowBuilt := by simp [Statement, RowAdmits, Instr.wellFormed]

theorem linkStateChange (up : Bool) : Statement (.linkStateChange up) := by
  simp [Statement, RowAdmits, Instr.wellFormed]

theorem functionEnableChange (memory message : Bool) : Statement (.functionEnableChange memory message) := by
  simp [Statement, RowAdmits, Instr.wellFormed]

end WellFormedness

end Sys2Proof.Laws
end

