-- ==== Sys2Proof/Laws/Slots.lean ====
section
/-! SUPPORT. What the shared operations make of one frame slot: a slot in a state they do not name stays, one they name
becomes FREE (R76), a reservation's become RESERVED (R74); and the tag a trigger gets (R61). -/

namespace Sys2Proof.Machine

/-- A slot of the table in one of the states. -/
def SlotIn (states : List SlotState) (n : Nat) (s : State) : Prop :=
  n < s.intake.slots.length ∧ (slotAt s n).state ∈ states

theorem slotAt_modSlot {s : State} {n m : Nat} {f : Slot → Slot} (h : m < s.intake.slots.length) :
    slotAt (modSlot n f s) m = if m = n then f (slotAt s n) else slotAt s m := by
  simp only [slotAt, modSlot, modIntake, List.getD_eq_getElem?_getD, List.getElem?_modify]
  by_cases e : m = n
  · subst e
    simp [List.getElem?_eq_getElem h]
  · simp [e, Ne.symm e, List.getElem?_eq_getElem h]

theorem SlotIn.modSlot {states : List SlotState} {n m : Nat} {f : Slot → Slot} {s : State} (h : SlotIn states m s)
    (hf : ∀ x : Slot, x.state ∈ states → (f x).state ∈ states) : SlotIn states m (modSlot n f s) := by
  refine ⟨by simpa [Machine.modSlot, modIntake] using h.1, ?_⟩
  rw [slotAt_modSlot h.1]
  split
  · next e => subst e; exact hf _ h.2
  · exact h.2

theorem SlotIn.moveSlot {states source : List SlotState} {n m : Nat} {s : State} (hfree : .free ∈ states)
    (h : SlotIn states m s) : SlotIn states m (moveSlot source .free n s) :=
  h.modSlot fun x hx => by
    split
    · exact hfree
    · exact hx

theorem SlotIn.moveSlots {states source : List SlotState} {slots : List Nat} {m : Nat} {s : State}
    (hfree : .free ∈ states) (h : SlotIn states m s) : SlotIn states m (moveSlots source .free slots s) := by
  induction slots generalizing s with
  | nil => exact h
  | cons n rest ih => exact ih (h.moveSlot hfree)

theorem SlotIn.cancelTag {states : List SlotState} {tag : Byte} {m : Nat} {s : State} (hf : .filling ∉ states)
    (h : SlotIn states m s) : SlotIn states m (cancelTag tag s) := by
  unfold Machine.cancelTag
  split
  · exact h
  · refine SlotIn.modSlot (s := modIntake _ s) ⟨h.1, h.2⟩ fun x hx => ?_
    split
    · next e =>
      simp only [Bool.and_eq_true, decide_eq_true_eq] at e
      exact absurd (e.1 ▸ hx) hf
    · exact hx

theorem SlotIn.releaseSlots {states : List SlotState} {slots : List Nat} {m : Nat} {s : State} (hfree : .free ∈ states)
    (hf : .filling ∉ states) (h : SlotIn states m s) : SlotIn states m (releaseSlots slots s) := by
  unfold Machine.releaseSlots
  induction slots generalizing s with
  | nil => exact h
  | cons n rest ih =>
    refine ih ?_
    refine SlotIn.moveSlot hfree ?_
    unfold cancelSlot
    split
    · exact h.cancelTag hf
    · exact h

/-- A slot in one of the states named, on the list, becomes FREE. -/
theorem moveSlots_frees {source : List SlotState} {slots : List Nat} {m : Nat} {s : State} (hm : m ∈ slots)
    (h : SlotIn (.free :: source) m s) : SlotIn [.free] m (moveSlots source .free slots s) := by
  induction slots generalizing s with
  | nil => simp at hm
  | cons n rest ih =>
    rcases List.mem_cons.mp hm with e | e
    · subst e
      refine SlotIn.moveSlots (by simp) (source := source) (slots := rest) ⟨?_, ?_⟩
      · simpa [moveSlot, modSlot, modIntake] using h.1
      · unfold moveSlot
        rw [slotAt_modSlot h.1, if_pos rfl]
        split
        · simp [Slot.reset]
        · next hs =>
          rcases List.mem_cons.mp h.2 with e | e
          · simp [e]
          · exact absurd e hs
    · exact ih e (h.moveSlot (by simp))

theorem SlotIn.enterShutdown {states : List SlotState} {m : Nat} {s : State} (hfree : .free ∈ states)
    (hf : .filling ∉ states) (h : SlotIn states m s) : SlotIn states m (enterShutdown s) := by
  unfold Machine.enterShutdown
  split
  · exact h
  · have : SlotIn states m (Machine.releaseSlots (heldSlots s) (stopCapture s)) :=
      SlotIn.releaseSlots hfree hf ⟨h.1, h.2⟩
    exact ⟨this.1, this.2⟩

theorem SlotIn.cacheEndWork {states : List SlotState} {m : Nat} {s : State} (hfree : .free ∈ states)
    (h : SlotIn states m s) : SlotIn states m (cacheEndWork s) := by
  unfold Machine.cacheEndWork
  split
  · exact h
  · next w _ =>
    have freed : SlotIn states m (Machine.moveSlots [.full] .free w.frameInHand.toList
        (Machine.moveSlots [.accumulator] .free (accumulatorList w.accumulators) s)) :=
      (h.moveSlots hfree).moveSlots hfree
    obtain ⟨c, hc⟩ := emptyEntries_eq w.install.toList (Machine.moveSlots [.full] .free w.frameInHand.toList
        (Machine.moveSlots [.accumulator] .free (accumulatorList w.accumulators) s))
    dsimp only
    rw [hc]
    exact ⟨freed.1, freed.2⟩

/-- A stopping failure of the ACTIVE order frees every slot of the tiles it disposes of (R56). -/
theorem failActive_frees {code : ResultCode} {s : State} {a : ActiveOrder} {t : MergeTile} {n : Nat}
    (ha : s.walker.active = some a) (he : a.ending = false) (hc : stoppingCode code = true) (ht : t ∈ s.merge.queue)
    (hn : n ∈ tileSlots t) (h : SlotIn [.merging, .full] n s) : (slotAt (failActive code s) n).state = .free := by
  have hq : (enterShutdown (modActive (fun a => handCounts s.plate (recordCode code a)) s)).merge.queue =
      s.merge.queue := by
    by_cases hp : s.plate.phase = .shutdown
    · rw [enterShutdown, if_pos (by simpa [modActive] using hp)]
      rfl
    · obtain ⟨i, rs, hs⟩ := enterShutdown_eq
        (s := modActive (fun a => handCounts s.plate (recordCode code a)) s) (by simpa [modActive] using hp)
      rw [hs]
      rfl
  have shut : SlotIn [.free, .merging, .full] n
      (enterShutdown (modActive (fun a => handCounts s.plate (recordCode code a)) s)) :=
    SlotIn.enterShutdown (by simp) (by simp) ⟨h.1, List.mem_cons_of_mem _ h.2⟩
  have disposed : SlotIn [.free] n
      (mergeDispose (enterShutdown (modActive (fun a => handCounts s.plate (recordCode code a)) s))) := by
    have := moveSlots_frees (source := [.merging, .full])
      (slots := (enterShutdown (modActive (fun a => handCounts s.plate (recordCode code a)) s)).merge.queue.flatMap
        tileSlots) (List.mem_flatMap.mpr ⟨t, hq ▸ ht, hn⟩) shut
    exact ⟨this.1, this.2⟩
  obtain ⟨w, rs, hw⟩ := writerDiscard_else
    (mergeDispose (enterShutdown (modActive (fun a => handCounts s.plate (recordCode code a)) s)))
  have stopped : SlotIn [.free] n (writerDiscard
      (mergeDispose (enterShutdown (modActive (fun a => handCounts s.plate (recordCode code a)) s)))) := by
    rw [hw]
    exact ⟨disposed.1, disposed.2⟩
  unfold failActive
  rw [ha]
  dsimp only
  rw [he, if_neg (by decide)]
  unfold passFailure
  dsimp only
  rw [if_pos hc]
  split
  · simpa using (SlotIn.cacheEndWork (by simp) stopped).2
  · simpa using stopped.2

/-- A slot of the list that the Plate Controller may release becomes FREE (R77). -/
theorem releaseSlots_frees {slots : List Nat} {m : Nat} {s : State} (hm : m ∈ slots)
    (h : SlotIn [.reserved, .filling, .full, .damaged, .free] m s) : SlotIn [.free] m (releaseSlots slots s) := by
  have hc : ∀ (k : Nat) (s : State), SlotIn [.reserved, .filling, .full, .damaged, .free] m s →
      SlotIn [.reserved, .filling, .full, .damaged, .free] m (cancelSlot k s) := by
    intro k s h
    unfold cancelSlot
    split
    · unfold cancelTag
      split
      · exact h
      · refine SlotIn.modSlot (s := modIntake _ s) ⟨h.1, h.2⟩ fun x hx => ?_
        split
        · simp
        · exact hx
    · exact h
  unfold releaseSlots
  induction slots generalizing s with
  | nil => simp at hm
  | cons n rest ih =>
    rw [List.foldl_cons]
    have hn := hc n s h
    by_cases e : m = n
    · subst e
      refine SlotIn.releaseSlots (by simp) (by simp) (slots := rest) ⟨?_, ?_⟩
      · simpa [releaseSlot, moveSlot, modSlot, modIntake] using hn.1
      · unfold releaseSlot moveSlot
        rw [slotAt_modSlot hn.1, if_pos rfl]
        have := hn.2
        simp only [List.mem_cons, List.not_mem_nil, or_false] at this
        rcases this with h | h | h | h | h <;> simp [h, Slot.reset]
    · refine ih ((List.mem_cons.mp hm).resolve_left e) (hn.modSlot fun x hx => ?_)
      split
      · simp [Slot.reset]
      · exact hx

/-- The slots of a grant are RESERVED for the order, every other stays (R74). -/
theorem slotAt_reserveSlots (slots : List Nat) (owner : Option Nat) {s : State} {n : Nat}
    (h : n < s.intake.slots.length) :
    slotAt (reserveSlots slots owner s) n = if n ∈ slots then ⟨.reserved, none, owner⟩ else slotAt s n := by
  unfold reserveSlots
  induction slots generalizing s with
  | nil => simp
  | cons m rest ih =>
    rw [List.foldl_cons, ih (by simpa [modSlot, modIntake] using h), slotAt_modSlot h]
    by_cases e : n = m
    · subst e
      simp
    · simp [e]

theorem reserveSlots_eq (slots : List Nat) (owner : Option Nat) (s : State) :
    ∃ table : List Slot, table.length = s.intake.slots.length ∧
      reserveSlots slots owner s = { s with intake := { s.intake with slots := table } } := by
  unfold reserveSlots
  induction slots generalizing s with
  | nil => exact ⟨s.intake.slots, rfl, rfl⟩
  | cons n rest ih =>
    obtain ⟨table, hl, h⟩ := ih (modSlot n (fun _ => ⟨.reserved, none, owner⟩) s)
    exact ⟨table, by simpa [modSlot, modIntake] using hl, by rw [List.foldl_cons, h]; rfl⟩

theorem skipTags_passes (listed : List Byte) (fuel : Nat) (t : Byte) :
    ∃ k ≤ fuel, skipTags listed fuel t = t + BitVec.ofNat 8 k ∧ (∀ j < k, t + BitVec.ofNat 8 j ∈ listed) ∧
      (k = fuel ∨ skipTags listed fuel t ∉ listed) := by
  have next : ∀ (t : Byte) (k : Nat), t + 1 + BitVec.ofNat 8 k = t + BitVec.ofNat 8 (k + 1) := by
    intro t k
    apply BitVec.eq_of_toNat_eq
    simp only [BitVec.toNat_add, BitVec.toNat_ofNat, show (1 : Byte).toNat = 1 from rfl]
    omega
  induction fuel generalizing t with
  | zero => exact ⟨0, by simp [skipTags]⟩
  | succ fuel ih =>
    unfold skipTags
    split
    · next h =>
      obtain ⟨k, hk, e, hj, hn⟩ := ih (t + 1)
      refine ⟨k + 1, by omega, by rw [e, next], fun j hjk => ?_, hn.imp (by omega) id⟩
      cases j with
      | zero => simpa using h
      | succ j => exact next t j ▸ hj j (by omega)
    · next h => exact ⟨0, by omega, by simp, by simp, .inr h⟩

/-- The tag a trigger gets, with fewer than 5 outstanding: the first from the next tag on that none of them carries
(R61). -/
theorem skipTags_free {listed : List Byte} (t : Byte) (h : listed.length < 5) :
    ∃ k, skipTags listed 5 t = t + BitVec.ofNat 8 k ∧ (∀ j < k, t + BitVec.ofNat 8 j ∈ listed) ∧
      skipTags listed 5 t ∉ listed := by
  obtain ⟨k, -, e, hj, hn⟩ := skipTags_passes listed 5 t
  refine ⟨k, e, hj, hn.resolve_left fun h5 => ?_⟩
  subst h5
  have distinct : ((List.range 5).map fun j => t + BitVec.ofNat 8 j).Nodup := by
    refine List.Nodup.map_on (fun a ha b hb hab => ?_) List.nodup_range
    have ha' := List.mem_range.mp ha
    have hb' := List.mem_range.mp hb
    have := congrArg BitVec.toNat hab
    simp only [BitVec.toNat_add, BitVec.toNat_ofNat] at this
    omega
  have := (List.subperm_of_subset distinct (l₂ := listed) fun x hx => by
    obtain ⟨j, hjr, rfl⟩ := List.mem_map.mp hx
    exact hj j (List.mem_range.mp hjr)).length_le
  rw [List.length_map, List.length_range] at this
  omega

end Sys2Proof.Machine
end

