-- ==== Sys2Proof/Laws/Starting.lean ====
section
/-! SUPPORT. What the steps of STARTING come to: the anchor arrived, the take index checked, the roll call requested. -/

namespace Sys2Proof.Machine

/-- A PING with room in the queue joins it (R157). -/
theorem sendPing_of_room {address : Nat} {s : State} (h : s.bus.queue.length < 8) :
    sendPing address s = joinQueue (.rollCall address) 4 address commandPing [] s := by
  unfold sendPing queueHasRoom
  rw [if_pos]
  exact decide_eq_true h

/-- The roll call with room for its five PINGs (R168). -/
theorem beginRollCall_eq {s : State} (h : s.bus.queue.length ≤ 3) :
    beginRollCall s =
      { s with bus := { s.bus with
          start := some .rollCall
          pings := [1, 2, 3, 4, 5]
          queue := [1, 2, 3, 4, 5].foldl (fun q address => queueInsert
            (newRequest (s.bus.nextRequest + (address - 1)) (.rollCall address) 4 address 1 []) q) s.bus.queue
          nextRequest := s.bus.nextRequest + 5 } } := by
  unfold beginRollCall pingAddresses
  simp only [List.foldl]
  rw [sendPing_of_room (address := 1) (by simp; omega)]
  rw [sendPing_of_room (address := 2) (by simp [joinQueue, queueInsert_length]; omega)]
  rw [sendPing_of_room (address := 3) (by simp [joinQueue, queueInsert_length]; omega)]
  rw [sendPing_of_room (address := 4) (by simp [joinQueue, queueInsert_length]; omega)]
  rw [sendPing_of_room (address := 5) (by simp [joinQueue, queueInsert_length]; omega)]
  simp [joinQueue, modBus, commandPing]

/-- The take index kept, or set to 0 and written (R107, R183 step 2). -/
theorem checkTakeIndex_eq {s : State} {w : Settings} (h : s.port.settings = some w) :
    checkTakeIndex s =
      { s with
        port := { s.port with writerRequests := s.port.writerRequests ++
          if w.poolCount ≤ s.writer.commonTake then
            [⟨.write (leBytes 4 0), w.anchor + 264, .poolWrite, false⟩] else [] }
        writer := { s.writer with
          commonTake := if w.poolCount ≤ s.writer.commonTake then 0 else s.writer.commonTake } } := by
  unfold checkTakeIndex
  rw [h]
  dsimp only
  by_cases hb : w.poolCount ≤ s.writer.commonTake
  · simp [hb, presentWriter, modWriter, modPort, anchorField, writeRequest, h]
  · simp [hb]

/-- The anchor's bytes arrived: its settings are accepted (R178, R179). -/
theorem AnchorArrives.exec_eq {s : State} {n op : Nat} {data : List Byte} (h : AnchorArrives s n op data) :
    exec (.readCompletion n data) s = .next (settle (acceptAnchor (parseSettings s.port.anchorRegister.toNat data)
      (modPort (fun p => { p with startStep := .idle, anchorPieces := [] }) (removeRead n s)))) := by
  obtain ⟨starting, step, pieces, ⟨r, found, purpose, sent, length⟩, whole, passes⟩ := h
  show Host.Outcome.next (settle (completeRead n data s)) = _
  congr 2
  unfold completeRead
  rw [found]
  dsimp only
  rw [sent]
  simp only [Bool.not_true, Bool.false_eq_true, if_false, length, whole, if_true, purpose, readDone]
  unfold anchorPieceRead
  rw [show (removeRead n s).port.startStep = .readingAnchor op 1 from step]
  simp [show (removeRead n s).port.anchorPieces = [] from pieces,
    show (removeRead n s).port.runState = .starting from starting, insertPiece, pieceBytes, anchorRead]
  rw [show (removeRead n s).port.anchorRegister = s.port.anchorRegister from rfl, passes]

end Sys2Proof.Machine
end

