-- ==== Sys2Proof/Tests/Slice0.lean ====
section
/-! SUPPORT. Tests of the model's own work: an ill-formed term for each check of WellFormed.lean, the fixed tables and
check words against the manual's values, small steps on small states, and for every statement with hypotheses a
state that meets them. -/

namespace Sys2Proof.Machine

/-! ## Well-formedness: each check refuses an ill-formed command -/

theorem test_one_command_is_not_several : (Instr.controlSeveralCommands 1).wellFormed = false := by decide

theorem test_several_with_reset_is_reset : (Instr.controlSeveralCommands 11).wellFormed = false := by decide

theorem test_two_commands_are_several : (Instr.controlSeveralCommands 3).wellFormed = true := by decide

theorem test_register_access_is_no_other_write : (Instr.otherRegisterWrite 0x14 4 0).wellFormed = false := by decide

theorem test_control_command_is_no_other_write : (Instr.otherRegisterWrite 0x08 4 1).wellFormed = false := by decide

theorem test_read_data_beyond_512 : (Instr.readCompletion 0 (zeroBytes 513)).wellFormed = false := by
  show decide ((List.replicate 513 (0 : Byte)).length ≤ 512) = false
  rw [List.length_replicate]
  decide

theorem test_reply_of_two_bytes : (Instr.replyReceived [1, 0]).wellFormed = false := by decide

theorem test_telegram_of_four_bytes : (Instr.telegramReceived [0, 1, 0, 0x18]).wellFormed = false := by decide

/-- No byte at all is another station's first dominant bit (log 50). -/
theorem test_telegram_begun_is_well_formed : (Instr.telegramReceived []).wellFormed = true := by decide

theorem test_trim_delay_in_steps_of_ten : (Instr.trimPulseMeasured 255).wellFormed = false := by decide

theorem test_sixth_member_exposure : (Instr.exposureTimerExpiry 5).wellFormed = false := by decide

theorem test_sixth_member_frame : (Instr.frameTimerExpiry 5).wellFormed = false := by decide

/-- A field longer than its own, and one begun with the one before it not whole. -/
theorem test_row_packet_fields_in_turn :
    (Instr.rowPacket [5, 6] [] [] []).wellFormed = false ∧ (Instr.rowPacket [5] [0, 0, 0] [] []).wellFormed = false ∧
      (Instr.rowPacket [5] [0, 0] (List.replicate 7169 0) []).wellFormed = false ∧
      (Instr.rowPacket [] [0] [] []).wellFormed = false ∧ (Instr.rowPacket [5] [0] [0] []).wellFormed = false ∧
      (Instr.rowPacket [5] [0, 0] [0] [0]).wellFormed = false ∧ (Instr.rowPacket [5] [0] [] []).wellFormed = true := by
  decide +kernel

theorem test_known_packet_is_not_unknown : (Instr.unknownPacket [4, 1]).wellFormed = false := by decide

theorem test_ack_of_wrong_length_is_unknown : (Instr.unknownPacket [4, 1, 0]).wellFormed = true := by decide

/-! ## Tables and check words -/

/-- An entry t lies within half a code of 4096 × log10(1 + m / 1024): 10 to the 2t − 1 at most, and to the 2t + 1 above,
the ratio to the 8192; `unit` is 1024 to the 8192 (R41). -/
def logEntryRight (unit m t : Nat) : Bool :=
  Nat.ble (10 ^ (2 * t) * unit) (10 * (1024 + m) ^ 8192) && Nat.blt ((1024 + m) ^ 8192) (10 ^ (2 * t + 1) * unit)

def logTableRight (unit : Nat) : Nat → List Nat → Bool
  | _, [] => true
  | m, t :: rest => logEntryRight unit m t && logTableRight unit (m + 1) rest

/-- Every entry of the table is the rounded logarithm (R41). -/
theorem test_log_table_entries : logTableRight (1024 ^ 8192) 0 logTable = true := by decide +kernel

theorem test_log_table_length : logTable.length = 1024 := by decide +kernel

/-- The check register's three values (07, "Example: the check register"). -/
theorem test_crc8_register :
    crc8 [0x81] = 0xEB ∧ crc8 [0x81, 0x00] = 0x88 ∧ crc8 [0x81, 0x00, 0x00] = 0x12 := by decide

/-- A row of 9s packed as in the packet unpacks to itself: four samples in seven bytes (R66). -/
theorem test_unpack_four_samples : unpackSamples [0x09, 0x40, 0x02, 0x90, 0x00, 0x24, 0x00] = [9, 9, 9, 9] := by decide

/-- The bits of one row of 16 pixels as the mask example places them (R48). -/
theorem test_mask_bits_pack : packMask 2 ([true, false, false, true] ++ List.replicate 9 false ++ [true, false, false])
    = [9, 32] := by decide

/-! ## Small states -/

/-- Settings with the window 0x1000..0x101000, anchor at 0x1000. -/
def smallSettings : Settings where
  anchor := 0x1000
  windowBase := 0x1000
  windowSize := 0x100000
  chainHead := 0
  poolBase := 0x2000
  poolCount := 16
  directory := 0x3000
  directoryCount := 1
  preferQuick := false
  recheck := 20
  motion := 4000
  frame := 2000
  dry := 30000
  exposure := List.replicate 16 100

/-- A part in a run state with the settings in force. -/
def runningIn (r : RunState) : State :=
  { State.reset with port := { Port.reset with runState := r, settings := some smallSettings } }

/-- The bus in a state, with one request in the queue and its attempt on the line. -/
def onTheLine (line : LineState) (r : BusRequest) : State :=
  { State.reset with bus := { Bus.reset with line := line, queue := [r], attempt := some r.number } }

/-- A PING of address 1. -/
def smallPing : BusRequest := newRequest 7 (.rollCall 1) 4 1 commandPing []

/-- A REFERENCE body and the order that carries it. -/
def smallReference : ReferenceBody := ⟨2, 0, 3, 4, 0, 0, 0, false, 100, 0, 0⟩

def smallOrder : PlateOrder := ⟨1, 9, .reference smallReference, 4000, 2000, 20, List.replicate 16 100⟩

/-- An ACTIVE order with nothing recorded. -/
def smallActive : ActiveOrder where
  number := 1
  address := 0x4000
  kind := .reference
  tag := 9
  body := .reference smallReference
  clamps := .none
  directory := []
  holds := []
  bank := none
  published := 0
  retakes := 0
  lateEvents := 0
  thickness := 0
  captureEnded := false
  withdrawn := false
  workEnded := false
  slotGroupOut := false
  ending := false
  primary := .none
  secondary := .none

/-- The order ACTIVE in a phase of its capture. -/
def capturingIn (phase : PlatePhase) (members : List Member) : State :=
  { State.reset with
    walker := { Walker.reset with active := some smallActive }
    plate := { Plate.reset with phase := phase, order := some smallOrder, members := members } }

/-- A member record with a tag and both timers. -/
def smallMember : Member := ⟨0, .transmitted, 2, some 5, .exposing, 0, some 2100, some 2000⟩

/-- One trigger of tag 5 on the list, and a FIFO. -/
def withTrigger (phase : TriggerPhase) (damaged : Bool) (fifo : List FifoItem) : State :=
  { State.reset with
    intake := { Intake.reset with triggers := [⟨5, 2, phase, 0, damaged⟩], fifo := fifo } }

/-- `n` rows of tag 5. -/
def smallRows (n : Nat) : List FifoItem := List.replicate n (.row 5 0 [])

/-- A PLATE body of one member, one tile. -/
def smallPlate : PlateBody where
  samePlate := false
  channel := 0
  memberCount := 1
  flatIndex := 0
  density := true
  positive := false
  mask := false
  width := 16
  mirror := false
  tileEnd := false
  nx := 1
  ny := 1
  floor := 64
  ceiling := 15800
  flatFloor := 64
  originX := 0
  originY := 0
  stepX := 0
  stepY := 0
  capacity := 1
  toneTable := 0
  descriptor := 0
  recordArea := 0x5000
  listArea := 0x6000
  members := [⟨500, 3, 400, 1⟩]
  darkfield := none

/-- Output parameters of one DENSITY tile. -/
def smallOutput : OutputParams where
  order := 1
  tag := 9
  nx := 1
  ny := 1
  originX := 0
  originY := 0
  stepX := 0
  stepY := 0
  density := true
  positive := false
  wide := true
  mask := false
  recordArea := 0x5000
  listArea := 0x6000
  capacity := 1
  tileEnd := false
  reserved := none

/-- A dry wait for the DENSITY plane. -/
def dryWaiting : State :=
  { runningIn .running with
    writer := { Writer.reset with
      params := some smallOutput, phase := .dry, task := .dryWait [.density], recheckTimer := some 20
      dryTimer := some 30000 } }

/-- Merge parameters of one DENSITY tile. -/
def smallMerge : MergeParams := ⟨1, 64, 15800, 64, [⟨400, 1⟩], 0, 100, none, true, false, false, 16, false, 0⟩

def smallTile : MergeTile := ⟨0, 0, 0, 0, [0], none⟩

/-- A merge at a row. -/
def mergingAt (row : Nat) : State :=
  { State.reset with
    intake := { Intake.reset with slots := ⟨.merging, none, some 1⟩ :: List.replicate 15 .reset }
    merge := ⟨.merging, [smallTile], row, startStats, some smallMerge⟩ }

/-- A REFERENCE order's work at a stage, its accumulators slots 0 and 1. -/
def smallWork (stage : ReferenceStage) : ReferenceWork where
  order := 1
  flat := false
  target := 0
  darkIndex := 0
  darkEntry := none
  frames := 4
  channel := 0
  level := 0
  step := 3
  dose := 100
  pin := false
  image := 0x10000
  stage := stage
  accumulators := some (0, 1)
  accumulated := 0
  frameInHand := some 2
  captureDone := false
  install := some 4
  op := 3
  generation := 0
  row := 4095
  sum := 0

/-- A read in progress of so many bytes with a purpose. -/
def reading (s : State) (length : Nat) (purpose : Purpose) : State :=
  { s with port := { s.port with reads := [⟨6, .runControl, 0x1000, length, purpose, true⟩] } }

def readOf (length : Nat) (purpose : Purpose) : ReadInProgress := ⟨6, .runControl, 0x1000, length, purpose, true⟩

/-- The walk with an examination under way. -/
def examining (failures : Nat) : State :=
  { runningIn .running with
    walker := { Walker.reset with phase := .examining, examination := some 3, readFailures := failures } }

/-- A TAKEN order. -/
def smallTaken : TakenOrder := newTaken 1 0x4000 []

/-- An anchor block of 512 bytes that passes every test, for an anchor at 0x1000. -/
def goodAnchor : List Byte :=
  leBytes 8 1 ++ leBytes 8 0x1000 ++ leBytes 8 0x100000 ++ zeroBytes 88 ++ leBytes 8 0x2000 ++ leBytes 8 16 ++
    leBytes 8 0x3000 ++ leBytes 8 1 ++ zeroBytes 368

/-! ## Steps -/

/-- START from reset has the zero anchor address and faults (R178). -/
theorem test_start_from_reset_faults :
    (match exec .start State.reset with
      | .next t => some (t.port.runState, t.port.faultReason, t.bus.line)
      | _ => none) = some (.faulted, .anchorAddress, .clearing) := by decide

/-- A good anchor is accepted and the zero group, RESUME and the clear pulse follow (R182). -/
theorem test_good_anchor_is_accepted :
    anchorTests 0x1000 goodAnchor = none := by decide

/-- STOP with no order held is STOPPED in the same event (R185). -/
theorem test_stop_without_orders_stops :
    (match exec .stop (runningIn .running) with
      | .next t => some (t.port.runState, t.port.causes.settled)
      | _ => none) = some (.stopped, true) := by decide

/-- A started gap count lets the queued PING go out (R151, R157). -/
theorem test_gap_sends_the_ping :
    (match exec .gapComplete { onTheLine .idle smallPing with
        bus := { Bus.reset with queue := [smallPing] } } with
      | .next t => some (t.bus.line, t.bus.attempt)
      | _ => none) = some (.sending, some 7) := by decide

/-- Resets keep frame memory, a power-on clears it (R58, R172). -/
theorem test_resets_and_frame_memory :
    (match exec .reset { State.reset with frame := [(3, 7)] },
        exec .powerOnReset { State.reset with frame := [(3, 7)] } with
      | .next t, .next u => some (t.frame, u.frame)
      | _, _ => none) = some ([(3, 7)], []) := by decide

/-! ## Hypotheses that can be met, statement by statement -/

theorem test_meets_idle : State.reset.pending = [] := rfl

theorem test_meets_invariant :
    Inv { State.reset with frame := [(3, 7), (4, 1)] } ∧
      step { State.reset with frame := [(3, 7), (4, 1)] } = .next { State.reset with frame := [(3, 7), (4, 1)] } :=
  ⟨⟨⟨rfl, rfl, Nat.zero_le _, Nat.zero_le _, Nat.zero_le _, Nat.zero_le _, carriedOnce_reset,
    Nat.zero_le _⟩, by decide⟩, rfl⟩

theorem test_meets_frame_kept :
    exec (.unknownPacket []) State.reset = .next State.reset ∧
      exec (.linkStateChange true) State.reset = .next State.reset := ⟨rfl, rfl⟩

/-- A read that is no load's, answered. -/
theorem test_meets_frame_kept_by_a_read :
    findRead 6 (reading (examining 0) 8 (.chainLink 3)).port = some (readOf 8 (.chainLink 3)) := by decide

theorem test_meets_refusals :
    (runningIn .faulted).port.runState ≠ .halted ∧ (runningIn .faulted).port.runState ≠ .stopped ∧
      (runningIn .faulted).port.runState ≠ .running ∧ (runningIn .faulted).port.runState ≠ .starting ∧
      (runningIn .faulted).port.runState ≠ .draining ∧ namesSeveral 7 = true := by decide

theorem test_meets_anchor_write :
    State.reset.port.runState = .halted ∧ (runningIn .stopped).port.runState = .stopped := by decide

theorem test_meets_other_accesses :
    writesNothing 0x18 4 0 = true ∧ writesNothing 0x14 2 0 = true ∧ writesNothing 0x08 4 16 = true ∧
      isRegisterAccess 0x18 4 = false ∧ isRegisterAccess 0x14 8 = false := by decide

theorem test_meets_nudge_walk :
    (∀ planes, (examining 0).writer.task ≠ .dryWait planes) ∧ (examining 0).walker.phase ≠ .waiting ∧
      ({ Walker.reset with phase := .waiting } : Walker).phase = .waiting := ⟨nofun, by decide, rfl⟩

theorem test_meets_dry_wait :
    dryWaiting.writer.recheckTimer = some 20 ∧ dryWaiting.writer.task = .dryWait [.density] ∧
      dryWaiting.writer.params = some smallOutput ∧ smallOutput.reserved = none ∧
      dryWaiting.writer.nextList < smallOutput.capacity ∧ dryWaiting.port.settings = some smallSettings := by decide

/-- A dry wait whose order has a reserved pool, not held dry. -/
theorem test_meets_reserved_dry_wait :
    let p := { smallOutput with reserved := some ⟨0x7000, 0x7100, 4, 1, false⟩ }
    let s : State := { dryWaiting with writer := { dryWaiting.writer with params := some p } }
    s.writer.params = some p ∧ s.writer.task = .dryWait [.density] ∧ s.writer.nextList < p.capacity ∧
      s.port.settings = some smallSettings ∧
      (p.reserved.filter fun r => !r.dry && !(planeRecord s.writer .density).fallback).isSome = true := by decide

theorem test_meets_start :
    let s : State := { State.reset with port := { Port.reset with anchorRegister := 0x1000 } }
    s.port.runState = .halted ∧ s.port.anchorRegister ≠ 0 ∧ s.port.anchorRegister.toNat % 64 = 0 := by decide

/-- The three ways into FAULTED; an address of 0 and one not aligned. -/
theorem test_meets_bad_address :
    State.reset.port.runState = .halted ∧ State.reset.port.anchorRegister = 0 ∧ (0x1020 : Word64).toNat % 64 ≠ 0 := by
  decide

theorem test_meets_third_chain_failure :
    let s := reading (examining 2) 8 (.chainLink 3)
    findRead 6 s.port = some (readOf 8 (.chainLink 3)) ∧ s.walker.examination = some 3 ∧
      s.walker.readFailures = 2 ∧ s.port.runState = .running := by decide

/-- A write at the window's first byte with the link down, and one past the window's end with the link up. -/
theorem test_meets_failed_write :
    let w := writeRequest 0x1000 [1] .orderWrite
    let far := writeRequest 0x101000 [1] .orderWrite
    let down : State := presentWalker [w] { runningIn .running with
      port := { (runningIn .running).port with linkUp := false } }
    let up := presentWalker [far] (runningIn .running)
    nextGrant down = some (.orderWalker, w) ∧ canSend down = false ∧
      nextGrant up = some (.orderWalker, far) ∧ canSend up = true ∧ inWindow up far.address 1 = false ∧
      up.port.runState = .running := by decide

/-- The anchor at 0x1000 arriving, from HALTED or from STOPPED, with the common pool's take index. -/
def anchorArriving (fresh : Bool) (take : Nat) : State :=
  { reading { State.reset with port := { Port.reset with
      runState := .starting, startFresh := fresh, startStep := .readingAnchor 3 1, anchorRegister := 0x1000 } }
      512 (.anchorPiece 3 0) with
    writer := { Writer.reset with commonTake := take } }

theorem anchor_arrives (fresh : Bool) (take : Nat) : AnchorArrives (anchorArriving fresh take) 6 3 goodAnchor :=
  ⟨rfl, rfl, rfl, ⟨readOf 512 (.anchorPiece 3 0), rfl, rfl, rfl, rfl⟩, by decide +kernel, test_good_anchor_is_accepted⟩

theorem test_meets_accepted_anchor :
    let s := anchorArriving true 0
    s.port.startFresh = true ∧ s.bus.pendingClear = none ∧ s.bus.rateRequest = none ∧ s.bus.queue = [] ∧
      s.port.rate = .base ∧ s.port.degraded = s.bus.degraded := by decide

/-- From STOPPED: the last take index below the new entry count, and the first at it; three requests in the queue. -/
theorem test_meets_accepted_again :
    let s := fun take => anchorArriving false take
    let kept := parseSettings 0x1000 goodAnchor
    (s 15).port.startFresh = false ∧ (s 15).bus.queue.length ≤ 3 ∧ kept.poolCount = 16 ∧
      (s 15).writer.commonTake = 15 ∧ (s 16).writer.commonTake = 16 ∧ [smallPing, smallPing, smallPing].length ≤ 3 := by
  decide

/-- The zero group, and the last write of STARTING, granted. -/
theorem test_meets_starting_writes :
    let s := fun purpose => ({ runningIn .starting with port := { (runningIn .starting).port with
      startStep := .reporting, linkUp := true, memoryEnable := true
      controlRequests := [writeRequest 0x1100 [1] purpose] } } : State)
    WriteDue (s .zeroGroup) .runControl (writeRequest 0x1100 [1] .zeroGroup) [1] ∧
      WriteDue (s .startReport) .runControl (writeRequest 0x1100 [1] .startReport) [1] ∧
      (s .startReport).port.runState = .starting ∧ (s .startReport).port.startStep = .reporting :=
  ⟨⟨by decide, rfl, by decide, by decide⟩, ⟨by decide, rfl, by decide, by decide⟩, rfl, rfl⟩

/-- The last PING of a roll call, answered by its module: from STOPPED, from HALTED with BASE, from HALTED with QUICK. -/
theorem test_meets_last_ping :
    let quick := { smallSettings with preferQuick := true }
    let s := fun (fresh : Bool) (w : Settings) => ({ onTheLine .receiving smallPing with
      bus := { (onTheLine .receiving smallPing).bus with pings := [1], start := some .rollCall }
      port := { Port.reset with settings := some w, startFresh := fresh } } : State)
    (∀ fresh, ∀ w ∈ [smallSettings, quick],
      (s fresh w).bus.line = .receiving ∧ (s fresh w).bus.attempt = some smallPing.number ∧
        findRequest 7 (s fresh w).bus = some smallPing ∧ (s fresh w).bus.pings = [1] ∧
        (s fresh w).bus.start = some .rollCall ∧ (s fresh w).port.settings = some w ∧
        (s fresh w).port.startFresh = fresh) ∧
      smallPing.requester = .rollCall 1 ∧ readReply commandPing ([1, 1, 1] ++ [crc8 [1, 1, 1]]) = some (1, [1]) ∧
      smallSettings.preferQuick = false ∧ quick.preferQuick = true := by decide +kernel

theorem test_meets_stop : (runningIn .running).port.runState = .running := rfl

theorem test_meets_draining_ends :
    (runningIn .draining).port.runState = .draining ∧ (runningIn .draining).walker.taken = none ∧
      (runningIn .draining).walker.active = none := by decide

theorem running_is_quiet (r : RunState) : OthersQuiet (runningIn r) := ⟨rfl, rfl, rfl, rfl, rfl, rfl, rfl, rfl, rfl⟩

/-- A STOP with nothing else under way. -/
theorem test_meets_stop_at_rest :
    (runningIn .running).plate.order = none ∧ (runningIn .running).plate.fallbackMark = false ∧
      ∀ r ∈ (runningIn .running).port.walkerRequests, r.purpose ≠ .withdrawnState :=
  ⟨rfl, rfl, by decide⟩

/-- DRAINING with the ACTIVE order's final state granted next, and with a withdrawal being written. -/
theorem test_meets_last_final_state :
    let r := writeRequest 0x4000 [1] (.finalState false)
    let s : State := presentWalker [r] { runningIn .draining with
      walker := { Walker.reset with active := some smallActive } }
    s.walker.taken = none ∧ s.walker.active = some smallActive ∧ nextGrant s = some (.orderWalker, r) ∧
      r.kind = .write [1] ∧ canSend s = true ∧ inWindow s r.address 1 = true ∧
      (∀ x ∈ s.port.walkerRequests, x.purpose ≠ .withdrawnState) ∧ s.port.runState = .draining ∧
      s.intake.fifo = [] ∧ s.intake.reservation = none ∧ s.merge.phase = .idle ∧ s.cache.work = none ∧
      s.writer.params = none ∧ s.bus.queue = [] ∧ s.bus.rateRequest = none ∧ s.bus.start = none := by decide

theorem test_meets_aborting_ends :
    let s : State := { runningIn .aborting with
      port := { (runningIn .aborting).port with startStep := .pulsing }
      bus := { Bus.reset with line := .clearing, pendingClear := some [.runControl] } }
    s.bus.line = .clearing ∧ s.port.runState = .aborting ∧ s.port.startStep = .pulsing ∧
      ClearRequester.runControl ∈ s.bus.pendingClear.getD [] ∧ s.bus.start = none := by decide

/-- ABORT with no order held, in STARTING, and with an order TAKEN. -/
theorem test_meets_abort :
    let starting : State := { runningIn .starting with
      port := { (runningIn .starting).port with startStep := .busPart } }
    let taken : State := { runningIn .running with walker := { Walker.reset with taken := some smallTaken } }
    (runningIn .running).walker.taken = none ∧ (runningIn .draining).walker.active = none ∧
      starting.port.runState = .starting ∧ starting.port.startStep = .busPart ∧
      taken.walker.taken = some smallTaken ∧ smallTaken.ending = false ∧ taken.walker.active = none := by decide

/-- A write, a read in the window and the message, each granted. -/
theorem test_meets_grants :
    let w := writeRequest 0x100FFF [1] .orderWrite
    let r := readRequest 0x1000 512 (.poolEntry 3)
    let s1 := presentWriter [w] (runningIn .running)
    let s2 := presentCache [r] (runningIn .running)
    let s3 := presentControl [interruptRequest] (runningIn .running)
    nextGrant s1 = some (.tileWriter, w) ∧ canSend s1 = true ∧ inWindow s1 w.address 1 = true ∧
      nextGrant s2 = some (.referenceCache, r) ∧ inWindow s2 r.address 512 = true ∧
      nextGrant s3 = some (.runControl, interruptRequest) ∧ s3.port.messageEnable = true := by decide

/-- The anchor's read, granted with no settings in force. -/
theorem test_meets_grant_of_the_anchor_read :
    let r := readRequest 0x1000 512 (.anchorPiece 3 0)
    let s := presentControl [r] State.reset
    nextGrant s = some (.runControl, r) ∧ windowExempt r.purpose = true ∧ canSend s = true ∧
      waitingRequest s .runControl = some r := by decide

/-- 32 reads in progress: the Order Walker's read waits, the Tile Writer's write is granted. -/
theorem test_meets_full_port :
    let read := readRequest 0x1000 8 (.chainLink 3)
    let w := writeRequest 0x1000 [1] .orderWrite
    let full : State := { runningIn .running with
      port := { (runningIn .running).port with
        reads := List.replicate 32 (readOf 8 (.chainLink 3)), walkerRequests := [read], writerRequests := [w] } }
    32 ≤ full.port.reads.length ∧ waitingRequest full .orderWalker = some read ∧ isRead read = true ∧
      grantable full .orderWalker = none ∧ nextGrant full = some (.tileWriter, w) ∧
      waitingRequest full .runControl = none := by decide

/-- The turn after each requester, and under a group's lock. -/
theorem test_meets_turns :
    (∀ q ∈ [Requester.orderWalker, .referenceCache, .tileWriter, .runControl],
      ({ Port.reset with lastGranted := q, groupLock := none } : Port).lastGranted = q) ∧
      ({ Port.reset with groupLock := some .runControl } : Port).groupLock = some .runControl := by decide

theorem test_meets_no_read : findRead 0 State.reset.port = none := by decide

/-- A chain read in progress at the chain head, the count at 1, the last below the limit. -/
theorem test_meets_chain_read :
    let s := reading (examining 1) 8 (.chainLink 3)
    findRead 6 s.port = some (readOf 8 (.chainLink 3)) ∧ s.walker.examination = some 3 ∧
      s.port.settings = some smallSettings ∧ leNat (zeroBytes 8) = 0 ∧ (zeroBytes 8).length = 8 ∧
      s.walker.readFailures + 1 < 3 ∧ s.walker.position = none := by decide

/-- Links read from an order at the walk position: the window's last 64 bytes, 64 further, and one not aligned. -/
theorem test_meets_chain_link :
    let s : State := { reading (examining 1) 8 (.chainLink 3) with
      walker := { (examining 1).walker with position := some 0x4000 } }
    s.walker.position ≠ none ∧ s.walker.examination = some 3 ∧
      leNat (leBytes 8 0x100FC0) = 0x100FC0 ∧ inWindow s 0x100FC0 64 = true ∧
      inWindow s 0x101000 64 = false ∧ 0x100FC0 % 64 = 0 ∧ 0x100FC4 % 64 ≠ 0 := by decide

/-- A chain head written since START, where the copy is 0: the header read is that of the address read (R125). -/
theorem test_chain_head_is_read_afresh :
    (chainLinkRead 3 (leBytes 8 0x4000) (examining 0)).port.walkerRequests =
      [readRequest 0x4000 64 (.chainHeader 3 0x4000)] ∧ smallSettings.chainHead = 0 := by decide

theorem test_meets_posted_header :
    let s := reading (examining 0) 64 (.chainHeader 3 0x4000)
    let data := leBytes 4 1 ++ zeroBytes 60
    findRead 6 s.port = some (readOf 64 (.chainHeader 3 0x4000)) ∧ data.length = 64 ∧
      s.walker.examination = some 3 ∧ leNat (data.take 4) = 1 ∧ leNat ((data.drop 8).take 4) = 0 := by decide

theorem test_meets_rechecks :
    let w : State := { runningIn .running with
      walker := { Walker.reset with phase := .waiting, recheckTimer := some 20 } }
    let p : State := { capturingIn .reserving [] with
      plate := { (capturingIn .reserving []).plate with recheckTimer := some 20 } }
    w.walker.recheckTimer = some 20 ∧ w.walker.taken = none ∧ w.walker.phase = .waiting ∧
      p.plate.recheckTimer = some 20 ∧ p.plate.sample = none ∧ p.walker.active = some smallActive := by decide

/-- The line free, a resting request ahead of a ready one. -/
theorem test_meets_free_line :
    let rested := { smallPing with number := 6, resting := true }
    let s : State := { State.reset with bus := { Bus.reset with gap := 8, queue := [rested, smallPing] } }
    s.bus.line = .idle ∧ s.bus.gap = 8 ∧ s.bus.breakOff = false ∧ s.bus.trimPulseOut = false ∧
      s.bus.rateRequest = none ∧ s.bus.queue = [rested] ++ smallPing :: [] ∧ rested.resting = true ∧
      smallPing.resting = false := by decide

/-- A HALT joins between requests of its priority and of higher numbers. -/
theorem test_meets_queue_order :
    let halt := newRequest 9 .plate 1 1 commandHalt []
    (∀ q ∈ [halt], q.priority ≤ halt.priority) ∧ ∀ q ∈ [smallPing].head?, halt.priority < q.priority := by decide

/-- A full queue with two PINGs out. -/
theorem test_meets_full_queue :
    let s : State := { State.reset with bus := { Bus.reset with queue := List.replicate 8 smallPing, pings := [1, 2] } }
    s.bus.queue.length = 8 ∧ 1 ∈ s.bus.pings ∧ 2 ∈ s.bus.pings ∧ (2 : Nat) ≠ 1 := by decide

/-- A request at its fifteenth lost and at its second spoiled attempt less one; two corrupt attempts in a row. -/
theorem test_meets_attempts :
    let r := { smallPing with lost := 14, spoiled := 1 }
    let waiting : State := { State.reset with bus := { Bus.reset with queue := [r] } }
    headWaits waiting.bus = some r ∧ findRequest 7 waiting.bus = some r ∧
      findRequest 7 (onTheLine .sending r).bus = some r ∧ (onTheLine .receiving r).bus.attempt = some 7 ∧
      r.lost + 1 < 16 ∧ r.spoiled + 1 < 3 ∧ (onTheLine .receiving r).bus.corruptRun + 1 < 3 ∧
      (onTheLine .receiving r).bus.pendingClear = none := by decide

/-- The third corrupt attempt in a row. -/
theorem test_meets_third_corrupt :
    let s : State := { onTheLine .sending smallPing with
      bus := { (onTheLine .sending smallPing).bus with corruptRun := 2 } }
    s.bus.line = .sending ∧ s.bus.attempt = some 7 ∧ s.bus.corruptRun = 2 ∧ s.bus.pendingClear = none := by decide

theorem test_meets_line_events :
    let followed : State := { State.reset with bus := { Bus.reset with line := .receiving } }
    let replying : State := { State.reset with bus := { Bus.reset with line := .replying } }
    findRequest 7 (onTheLine .sending smallPing).bus = some smallPing ∧ smallPing.target ≠ 31 ∧
      State.reset.bus.line = .idle ∧ followed.bus.line = .receiving ∧ followed.bus.attempt = none ∧
      replying.bus.line = .replying ∧ canReceive followed.bus = true ∧
      canReceive State.reset.bus = true := by decide

/-- A BUSY reply at the fourth resend, a PING's reply with another PING out. -/
theorem test_meets_replies :
    let busy := { smallPing with busy := 4 }
    let pinged : State := { onTheLine .receiving smallPing with
      bus := { (onTheLine .receiving smallPing).bus with pings := [1, 2] } }
    readReply commandPing (replyBytes 4) = some (4, []) ∧ busy.busy < 5 ∧
      readReply commandPing ([1, 1, 1] ++ [crc8 [1, 1, 1]]) = some (1, [1]) ∧ smallPing.requester = .rollCall 1 ∧
      1 ∈ pinged.bus.pings ∧ 2 ∈ pinged.bus.pings ∧ findRequest 7 pinged.bus = some smallPing := by decide +kernel

theorem test_meets_goto_accepted :
    let r := newRequest 7 .plate 4 1 commandGoto (zeroBytes 8)
    let s : State := { onTheLine .receiving r with
      plate := { Plate.reset with phase := .moving, awaiting := some (.goto 0 0), order := some smallOrder } }
    findRequest 7 s.bus = some r ∧ readReply r.command (replyBytes 2) = some (2, []) ∧
      s.plate.awaiting = some (.goto 0 0) ∧ s.plate.order = some smallOrder ∧ s.plate.phase ≠ .shutdown := by
  decide +kernel

/-- The replies of the capture's telegrams: a lamp's, the gauge's with a plate and without, the lid's two states, and
ACCEPTED and REFUSED; an order in its capture that can fail. -/
theorem test_meets_capture_replies :
    let gauge := fun present : Byte => ([1, 5, present, 0, 0, 8, 0] ++ [crc8 [1, 5, present, 0, 0, 8, 0]] : List Byte)
    let r := newRequest 7 .plate 4 4 commandGauge []
    let s := fun step : PlateStep => ({ onTheLine .receiving r with
      walker := { Walker.reset with active := some smallActive }
      plate := { Plate.reset with phase := .gauging, awaiting := some step, order := some smallOrder } } : State)
    readReply commandLight (replyBytes 1) = some (1, []) ∧ readReply commandRing (replyBytes 1) = some (1, []) ∧
      readReply commandGauge (gauge 1) = some (1, [1, 0, 0, 8, 0]) ∧
      beNat ((([1, 0, 0, 8, 0] : List Byte).drop 1).take 4) = 2048 ∧
      readReply commandGauge (gauge 0) = some (1, [0, 0, 0, 8, 0]) ∧
      readReply commandLidstate ([1, 1, 1] ++ [crc8 [1, 1, 1]]) = some (1, [1]) ∧
      readReply commandLidstate ([1, 1, 2] ++ [crc8 [1, 1, 2]]) = some (1, [2]) ∧
      readReply commandGauge (replyBytes 2) = some (2, []) ∧ readReply commandGauge (replyBytes 3) = some (3, []) ∧
      findRequest 7 (s .gauge).bus = some r ∧ r.requester = .plate ∧ (s .gauge).plate.awaiting = some .gauge ∧
      (s (.light 3 800)).plate.awaiting = some (.light 3 800) ∧ (s .gauge).plate.order = some smallOrder ∧
      (s .gauge).plate.phase ≠ .shutdown ∧ (s .gauge).walker.active = some smallActive ∧
      smallActive.ending = false ∧ smallActive.primary = .none := by decide +kernel

/-- The part's own start mark, reply and trim pulse set the gap count back to 0 (R151). -/
theorem test_own_bits_end_the_gap :
    let s : State := { State.reset with bus := { Bus.reset with gap := 8 } }
    (beginAttempt smallPing s).bus.gap = 0 ∧ (replyOnLine replyRefused s).bus.gap = 0 ∧
      (takeLine .plate s).bus.gap = 0 ∧ (putOnLine .trimPulse s).bus.gap = 0 := by decide

/-- A line that is IDLE and one that is not; a bad check byte, a telegram between modules, and one to the part that is
no notice. -/
theorem test_meets_telegrams :
    let other : List Byte := [0x81, 2, 0, 0x11]
    let ours : List Byte := [0x80, 1, 0, 0x11]
    State.reset.bus.line = .idle ∧ (onTheLine .sending smallPing).bus.line ≠ .idle ∧
      wellChecked [0x81, 2, 0, 0x11, 0x00] = false ∧ telegramGood (other ++ [crc8 other]) = true ∧
      telegramTarget (other ++ [crc8 other]) = 1 ∧ telegramGood (ours ++ [crc8 ours]) = true ∧
      telegramTarget (ours ++ [crc8 ours]) = 0 := by decide +kernel

/-- A telegram that is no notice; a well checked one to the part with a length byte above 8. -/
theorem test_meets_telegram_refused :
    let long : List Byte := [0x00, 5, 9, 0x58] ++ zeroBytes 9
    (noticeDelivery [0x80, 1, 0, 0x11, crc8 [0x80, 1, 0, 0x11]]).isNone = true ∧
      telegramGood (long ++ [crc8 long]) = true ∧ telegramTarget (long ++ [crc8 long]) = 0 ∧
      (noticeDelivery (long ++ [crc8 long])).isNone = true := by
  decide +kernel

theorem test_meets_noise : State.reset.bus.line = .idle ∧ (onTheLine .sending smallPing).bus.line ≠ .idle := by decide

/-- Recorded in RUNNING; not recorded with no settings, nor with the zero group still to be accepted. -/
theorem test_meets_attention_notices :
    canReceive (runningIn .running).bus = true ∧ capturing (runningIn .running) = false ∧
      (runningIn .running).port.settings = some smallSettings ∧ (runningIn .running).port.freshMark = false ∧
      (runningIn .running).walker.active = none ∧ canReceive State.reset.bus = true ∧
      capturing State.reset = false ∧ State.reset.port.settings = none ∧
      ({ (runningIn .starting).port with freshMark := true } : Port).freshMark = true := by decide

/-- A PLATE order in SHUTDOWN that OUTPUT_STARVED has failed. -/
theorem test_meets_starved_shutdown :
    let a := { smallActive with kind := .plate, primary := .outputStarved }
    let s : State := { runningIn .running with
      walker := { Walker.reset with active := some a }, plate := { Plate.reset with phase := .shutdown } }
    canReceive s.bus = true ∧ capturing s = false ∧ s.port.settings = some smallSettings ∧ s.port.freshMark = false ∧
      StarvedShutdown s a := by
  refine ⟨?_, ?_, ?_, ?_, ?_, ?_, ?_, ?_, ?_⟩ <;> decide

/-- A capture with every timer running, the dry timer too. -/
theorem test_meets_failing_events :
    let s : State := { capturingIn .moving [smallMember] with
      plate := { (capturingIn .moving [smallMember]).plate with motionTimer := some 4000 }
      writer := { Writer.reset with dryTimer := some 30000 } }
    capturing s = true ∧ canReceive s.bus = true ∧ s.plate.phase ≠ .interlock ∧
      s.plate.motionTimer = some 4000 ∧ s.plate.members[0]? = some smallMember ∧
      smallMember.exposureTimer = some 2100 ∧ smallMember.frameTimer = some 2000 ∧
      s.writer.dryTimer = some 30000 := by decide

theorem test_meets_can_fail : CanFail (capturingIn .moving [smallMember]) :=
  ⟨by decide, smallActive, rfl, rfl, rfl⟩

theorem test_meets_arrived :
    let o := { smallOrder with body := .plate smallPlate }
    let m : Member := ⟨0, .transmitted, 0, none, .waiting, 0, none, none⟩
    let s : State := { State.reset with plate := { Plate.reset with
      phase := .moving, motionTimer := some 4000, order := some o, members := [m] } }
    canReceive s.bus = true ∧ s.plate.phase = .moving ∧ s.plate.motionTimer = some 4000 ∧ s.plate.order = some o ∧
      o.body = .plate smallPlate ∧ s.plate.members = m :: [] ∧ m.phase = .waiting ∧
      State.reset.plate.phase ≠ .moving ∧ State.reset.plate.phase ≠ .shutdown := by decide

theorem test_meets_clear_pulse_end :
    let s : State := { State.reset with
      bus := { Bus.reset with line := .clearing, pendingClear := some [.plate] } }
    s.bus.line = .clearing ∧ capturing s = false ∧ s.bus.start = none ∧
      s.bus.clearOwn = false ∧ s.port.runState ≠ .aborting ∧ s.port.rate = s.bus.rate ∧
      s.port.degraded = s.bus.degraded := by decide

/-- The seventh pulse of a trim, the eighth at exactly 250 ns, and one of 260 ns. -/
theorem test_meets_trim_pulses :
    let s := fun n : Nat => ({ State.reset with bus := { Bus.reset with
      start := some .trim, trimPulseOut := true, trimDelays := List.replicate n 250 } } : State)
    (s 6).bus.trimPulseOut = true ∧ (s 6).bus.trimDelays.length < 7 ∧ (s 7).bus.trimDelays.length = 7 ∧
      (∀ d ∈ (s 7).bus.trimDelays, d ≤ 250) ∧ 250 < 260 := by decide

theorem test_meets_unlisted : triggerOf 5 State.reset = none := by decide

theorem test_meets_exposed :
    let s : State := { withTrigger .awaitingExposed false [] with
      plate := { Plate.reset with order := some smallOrder, phase := .exposing, members := [smallMember] } }
    triggerOf 5 s = some ⟨5, 2, .awaitingExposed, 0, false⟩ ∧ s.plate.order = some smallOrder ∧
      memberOfTag 5 s = some 0 ∧ smallOrder.body = .reference smallReference ∧
      triggerOf 5 (withTrigger .streaming false []) = some ⟨5, 2, .streaming, 0, false⟩ := by decide

/-- A PLATE tile's member exposed with another WAITING behind it, and with none. -/
theorem test_meets_exposed_plate :
    let o := { smallOrder with body := .plate smallPlate }
    let next : Member := ⟨1, .transmitted, 3, none, .waiting, 0, none, none⟩
    let s := fun members : List Member => ({ withTrigger .awaitingExposed false [] with
      plate := { Plate.reset with order := some o, phase := .exposing, members := members } } : State)
    let streaming := fun members : List Member => members.modify 0 fun m => { m with phase := .streaming }
    memberOfTag 5 (s [smallMember, next]) = some 0 ∧ o.body = .plate smallPlate ∧
      (streaming [smallMember, next])[1]? = some next ∧ next.phase = .waiting ∧
      (∀ q ∈ streaming [smallMember], q.phase ≠ .waiting) := by decide

/-- A row of 7174 bytes, its type byte among them, is good by its own check word. -/
theorem test_meets_good_row (samples : List Byte) (h : samples.length = 7168) :
    rowGood ⟨5, 2, .streaming, 0, false⟩ ([5, 0, 0] ++ samples ++ leBytes 2 (crc16 ([5, 0, 0] ++ samples)).toNat) =
      true := by
  have whole : ([5, 0, 0] ++ samples).length = 7171 := by simp [h]
  have take : ([5, 0, 0] ++ samples ++ leBytes 2 (crc16 ([5, 0, 0] ++ samples)).toNat).take 7171 =
      [5, 0, 0] ++ samples := by rw [List.take_append_of_le_length (by omega), List.take_of_length_le (by omega)]
  have check : (([5, 0, 0] ++ samples ++ leBytes 2 (crc16 ([5, 0, 0] ++ samples)).toNat).drop 7171).take 2 =
      leBytes 2 (crc16 ([5, 0, 0] ++ samples)).toNat := by
    rw [List.drop_append_of_le_length (by omega), List.drop_of_length_le (by omega)]
    simp [leBytes]
  have value : ∀ w : Word16, BitVec.ofNat 16 (leNat (leBytes 2 w.toNat)) = w := by
    intro w
    apply BitVec.eq_of_toNat_eq
    have := w.isLt
    simp only [leBytes, leNat, BitVec.toNat_ofNat]
    omega
  simp only [rowGood, packetWhole, packetCheck, packetRow, fieldNat, Config.packedRowBytes, Config.frameRows, take,
    check, value]
  simp [h, leBytes, leNat]

/-- The levels 46, 47 and 64. -/
theorem test_meets_row_levels :
    fifoLevel (withTrigger .streaming false (smallRows 46)) < 47 ∧
      fifoLevel (withTrigger .streaming false (smallRows 47)) = 47 ∧
      fifoLevel (withTrigger .streaming false (smallRows 64)) = 64 ∧
      (withTrigger .streaming false (smallRows 47)).intake.flow = .flowing := by decide

/-- The other flow states at both sides of their marks, FLOWING above its mark, and an entry that awaits EXPOSED. -/
theorem test_meets_row_flow :
    let s := fun (f : FlowState) (n : Nat) =>
      ({ withTrigger .streaming false (smallRows n) with
        intake := { (withTrigger .streaming false (smallRows n)).intake with flow := f } } : State)
    fifoLevel (s .flowing 63) = 63 ∧ fifoLevel (s .paused 15) = 15 ∧ fifoLevel (s .paused 16) = 16 ∧
      fifoLevel (s .pauseSent 63) = 63 ∧ (s .resumeSent 0).intake.flow = .resumeSent ∧
      (s .paused 17).intake.flow = .paused ∧ ((smallRows 17).filter isRow).length = 17 ∧
      ((smallRows 16).filter isRow).length = 16 ∧
      triggerOf 5 (withTrigger .awaitingExposed false []) = some ⟨5, 2, .awaitingExposed, 0, false⟩ ∧
      frameEnded 5 (withTrigger .awaitingExposed false []) = false := by decide

/-- A damaged entry, a row of the wrong length, a tag whose FRAME_END has arrived and one whose has not. -/
theorem test_meets_bad_row :
    triggerOf 5 (withTrigger .streaming true []) = some ⟨5, 2, .streaming, 0, true⟩ ∧
      ([5] ++ [] ++ [] ++ [] : List Byte).head? = some 5 ∧
      rowGood ⟨5, 2, .streaming, 0, false⟩ [5] = false ∧ frameEnded 5 (withTrigger .streaming false []) = false ∧
      FifoItem.frameEnd 5 4096 ∈ (withTrigger .streaming false [.frameEnd 5 4096]).intake.fifo := by decide

theorem test_meets_whole_frame :
    let s : State := { State.reset with intake := { Intake.reset with
      slots := ⟨.filling, some 5, some 1⟩ :: List.replicate 15 .reset } }
    0 < s.intake.slots.length ∧ (slotAt s 0).state = .filling := by decide

theorem test_meets_fifo_row :
    let s := withTrigger .streaming false [.row 5 4095 (zeroBytes 7168)]
    s.intake.fifo = .row 5 4095 (zeroBytes 7168) :: [] ∧
      triggerOf 5 s = some ⟨5, 2, .streaming, 0, false⟩ ∧ (zeroBytes 7168).length = 7168 :=
  ⟨rfl, rfl, List.length_replicate⟩

/-- A row of an unlisted tag, and one of a damaged entry. -/
theorem test_meets_dropped_row :
    triggerOf 6 (withTrigger .streaming false [.row 6 0 []]) = none ∧
      triggerOf 5 (withTrigger .streaming true [.row 5 0 []]) = some ⟨5, 2, .streaming, 0, true⟩ := by decide

/-- The flow states, each at both sides of its mark. -/
theorem test_meets_acks :
    let s := fun (f : FlowState) (n : Nat) =>
      ({ State.reset with intake := { Intake.reset with flow := f, fifo := smallRows n } } : State)
    fifoLevel (s .pauseSent 17) = 17 ∧ fifoLevel (s .pauseSent 16) = 16 ∧ fifoLevel (s .resumeSent 47) = 47 ∧
      fifoLevel (s .resumeSent 48) = 48 ∧ fifoLevel (s .flowing 17) = 17 ∧ fifoLevel (s .flowing 16) = 16 ∧
      (s .paused 0).intake.flow = .paused := by decide

theorem test_meets_ack_timer :
    let s := fun n : Nat => ({ State.reset with intake := { Intake.reset with
      flow := .pauseSent, sends := n, ackTimer := some 10 } } : State)
    (s 2).intake.ackTimer = some 10 ∧ (s 2).intake.sends < 3 ∧ 3 ≤ (s 3).intake.sends ∧ capturing (s 3) = false := by
  decide

theorem test_meets_stall_in_capture :
    let s : State := { capturingIn .exposing [] with intake := { Intake.reset with
      flow := .pauseSent, sends := 3, ackTimer := some 10 } }
    s.intake.ackTimer = some 10 ∧ 3 ≤ s.intake.sends ∧ capturing s = true := by decide

/-- The four cases of the decision at their boundaries. -/
theorem test_meets_pixel_cases :
    let b : MergeBounds := ⟨64, 15800, 64⟩
    memberValid b ⟨15800, 15736, 1⟩ = true ∧ memberValid b ⟨15801, 0, 1⟩ = false ∧
      memberValid b ⟨263, 200, 1⟩ = false ∧
      [(⟨16383, 0, 2⟩ : MemberPixel), ⟨16383, 1, 1⟩, ⟨16383, 2, 1⟩].filter (memberValid b) = [] ∧
      decidePixel b 64 100 [⟨16383, 0, 2⟩, ⟨16383, 1, 1⟩, ⟨16383, 2, 1⟩] =
        ⟨.clippedHigh, 0, true, false⟩ := by decide

theorem test_meets_mask : smallMerge.darkfield = none ∧ (clampPlate smallPlate).darkfield = none := by decide

theorem test_meets_row_computed :
    (mergingAt 4094).merge.phase = .merging ∧ (mergingAt 4094).merge.params = some smallMerge ∧
      (mergingAt 4094).merge.queue = smallTile :: [] ∧ (mergingAt 4094).merge.row < 4095 := by decide

/-- A tile with a dark-field slot and an order with its dark, all three planes selected, at either width. -/
theorem test_meets_row_planes :
    let p := fun width : Nat =>
      ({ smallMerge with darkfield := some (1, 40), positive := true, mask := true, width := width } : MergeParams)
    let t : MergeTile := { smallTile with darkSlot := some 1 }
    Memory.wf (mergingAt 0).frame ∧ (p 8).darkfield = some (1, 40) ∧ t.darkSlot = some 1 ∧ (p 8).density = true ∧
      (p 8).positive = true ∧ (p 8).mask = true ∧ (p 8).width = 8 ∧ (p 16).width ≠ 8 :=
  ⟨reset_memory_wf, rfl, rfl, rfl, rfl, rfl, rfl, by decide⟩

theorem test_meets_last_row :
    (mergingAt 4095).merge.row = 4095 ∧ (slotAt (mergingAt 4095) 0).state = .merging ∧
      0 < (mergingAt 4095).intake.slots.length := by decide

/-- A common pool's scan at its last entry: a FREE entry whose extent ends at the window's end, and one that is not
FREE at the turn's end and before it. -/
theorem test_meets_pool_scan :
    let window := { smallSettings with windowBase := 0x1000, windowSize := 0x10F000 }
    let scan := fun left : Nat => (⟨3, false, 15, left⟩ : Scan)
    let s : State := reading { State.reset with
      port := { Port.reset with settings := some window }
      writer := { Writer.reset with params := some smallOutput, task := .scanning [.density] (scan 0) } }
      16 (.poolEntry 3)
    let free : List Byte := [1, 0, 1, 0, 9, 0, 0, 0, 0, 0, 0x10, 0, 0, 0, 0, 0]
    findRead 6 s.port = some (readOf 16 (.poolEntry 3)) ∧ s.writer.task = .scanning [.density] (scan 0) ∧
      s.writer.params = some smallOutput ∧ s.port.settings = some window ∧ free.length = 16 ∧
      leNat (free.take 2) = 1 ∧ leNat ((free.drop 2).take 2) = 1 ∧ leNat ((free.drop 8).take 8) = 0x100000 ∧
      0x100000 % 65536 = 0 ∧ 0x100000 + 65536 ≤ window.windowBase + window.windowSize ∧
      leNat ((zeroBytes 16).take 2) ≠ 1 ∧ (scan 1).left ≠ 0 := by decide

/-- A reserved pool's scan at its last entry, and a FREE entry whose address is not aligned. -/
theorem test_meets_reserved_scan :
    let own : ReservedPool := ⟨0x7000, 0x7100, 4, 1, false⟩
    let p := { smallOutput with reserved := some own }
    let scan : Scan := ⟨3, true, 3, 0⟩
    let s : State := reading { runningIn .running with
      writer := { Writer.reset with params := some p, task := .scanning [.density] scan } } 16 (.poolEntry 3)
    let bad : List Byte := [1, 0, 1, 0, 9, 0, 0, 0, 1, 0, 0, 0, 0, 0, 0, 0]
    findRead 6 s.port = some (readOf 16 (.poolEntry scan.op)) ∧ s.writer.params = some p ∧ p.reserved = some own ∧
      scan.reserved = true ∧ scan.left = 0 ∧ leNat (bad.take 2) = 1 ∧ leNat ((bad.drop 8).take 8) % 65536 ≠ 0 := by
  decide

/-- The last piece of a load into entry 47. -/
theorem test_meets_load :
    let l : Load := ⟨3, 0x10000, 33554432, 33553920⟩
    let c : CacheEntry := { CacheEntry.reset with state := .loading, load := some l }
    let s : State := reading { State.reset with cache := { Cache.reset with
      entries := List.replicate 47 .reset ++ [c] } } 512 (.loadPiece 47 3 33553920)
    findRead 6 s.port = some (readOf 512 (.loadPiece 47 3 33553920)) ∧ s.cache.entries[47]? = some c ∧
      c.load = some l ∧ l.landed + 512 = 33554432 := by decide

theorem test_meets_accumulation :
    let s : State := { State.reset with
      cache := { Cache.reset with work := some (smallWork .accumulating) }
      intake := { Intake.reset with
        slots := [⟨.accumulator, none, some 1⟩, ⟨.accumulator, none, some 1⟩, ⟨.full, none, some 1⟩] ++
          List.replicate 13 .reset } }
    Memory.wf s.frame ∧ s.cache.work = some (smallWork .accumulating) ∧
      (smallWork .accumulating).accumulators = some (0, 1) ∧ (smallWork .accumulating).frameInHand = some 2 ∧
      2 < s.intake.slots.length ∧ (slotAt s 2).state = .full := by decide

theorem test_meets_built_row :
    let w := smallWork .building
    w.stage = .building ∧ w.accumulators = some (0, 1) ∧ w.install = some 4 ∧ w.row < 4096 := by decide

/-- The last tile of the largest grid. -/
theorem test_meets_tile_plan : 63 < 8 * 8 ∧ sequenceTile 8 63 = 56 ∧ sequenceTile 8 56 = 63 := by decide

/-! ## The Tile Writer's rows, publication and disposal -/

/-- A row of two DENSITY bytes of tile 0. -/
def smallRow : RowEntry := ⟨0, 0, [1, 2], [], []⟩

/-- The Tile Writer at a task, with one extent of one unit and so many bytes used. -/
def writingAt (task : WriterTask) (used : Nat) (queue : List QueueItem) : State :=
  { runningIn .running with
    walker := { Walker.reset with active := some { smallActive with kind := .plate } }
    writer := { Writer.reset with
      params := some smallOutput, phase := .writing, tile := some 0, task := task, queue := queue
      density := ⟨some ⟨0, 0x10000, 1, used⟩, false, 0, 1, 0⟩ } }

/-- That part with one write of the Tile Writer waiting. -/
def writeOf (purpose : Purpose) : Request := writeRequest 0x4000 [1] purpose

def due (s : State) (purpose : Purpose) : State := presentWriter [writeOf purpose] s

/-- A row at the head with no tile in writing and in its tile, and a plane with an extent. -/
theorem test_meets_row_at_the_head :
    let s := writingAt .none 0 [.row smallRow]
    let fresh : State := { s with writer := { s.writer with tile := none, phase := .idle } }
    s.writer.params = some smallOutput ∧ s.writer.phase ≠ .finishing ∧ s.writer.queue = .row smallRow :: [] ∧
      s.writer.task = .none ∧ s.writer.phase ≠ .discarding ∧ fresh.writer.tile ≠ some smallRow.tile ∧
      (writingAt (.row [.density] false) 0 []).writer.task = .row [.density] false ∧
      (planeRecord s.writer .density).current = some ⟨0, 0x10000, 1, 0⟩ := by decide

/-- A plane without an extent: the list full, and the first take from a reserved and from the common pool. -/
theorem test_meets_row_without_extent :
    let s := fun (next : Nat) (own : Option ReservedPool) =>
      let w := writingAt (.row [.density] false) 0 [.row smallRow]
      ({ w with writer := { w.writer with
          density := .clear, nextList := next, params := some { smallOutput with reserved := own } } } : State)
    (planeRecord (s 1 none).writer .density).current = none ∧ smallOutput.capacity ≤ (s 1 none).writer.nextList ∧
      (s 0 none).writer.nextList < smallOutput.capacity ∧ (s 0 none).port.settings = some smallSettings ∧
      (s 0 (some ⟨0x7000, 0x7100, 4, 1, false⟩)).writer.params =
        some { smallOutput with reserved := some ⟨0x7000, 0x7100, 4, 1, false⟩ } := by decide

theorem test_meets_list_full : CanFail (writingAt (.row [.density] false) 0 [.row smallRow]) :=
  ⟨by decide, _, rfl, rfl, rfl⟩

/-- The last plane's row that fills its extent, and one that does not with a plane to come. -/
theorem test_meets_row_accepted :
    (WriteDue (due (writingAt (.row [.density] true) 65534 [.row smallRow]) (.planeRow .density)) .tileWriter
        (writeOf (.planeRow .density)) [1] ∧ 65534 + (planeBytes smallRow .density).length = 1 * 65536) ∧
      WriteDue (due (writingAt (.row [.density, .mask] true) 0 [.row smallRow]) (.planeRow .density)) .tileWriter
        (writeOf (.planeRow .density)) [1] :=
  ⟨⟨⟨by decide, rfl, by decide, by decide⟩, by decide⟩, ⟨by decide, rfl, by decide, by decide⟩⟩

theorem test_meets_take_accepted :
    let take : Take := ⟨true, 2, ⟨0, 0x10000, 1, 0⟩, true⟩
    let s := writingAt (.taking [.density] take) 0 [.row smallRow]
    WriteDue (due s .takeIndexed) .tileWriter (writeOf .takeIndexed) [1] ∧
      s.writer.task = .taking [.density] take ∧ s.writer.params = some smallOutput :=
  ⟨⟨by decide, rfl, by decide, by decide⟩, by decide⟩

theorem test_meets_publication :
    let mark : TileMark := ⟨0, 0, 0, 0, startStats⟩
    let s := writingAt .none 8192 [.endMark mark]
    let t := writingAt .publishing 8192 [.endMark mark]
    (s.writer.task = .none ∧ s.writer.phase ≠ .finishing ∧ s.writer.phase ≠ .discarding ∧
        s.writer.queue = .endMark mark :: []) ∧
      WriteDue (due t (.published 0)) .tileWriter (writeOf (.published 0)) [1] ∧ t.writer.task = .publishing ∧
      t.writer.params = some smallOutput ∧ t.port.settings = some smallSettings ∧ t.walker.active.isSome = true ∧
      WriteDue (due t (.tilesPublished true)) .tileWriter (writeOf (.tilesPublished true)) [1] :=
  ⟨by decide, ⟨by decide, rfl, by decide, by decide⟩, by decide, by decide, by decide, by decide,
    ⟨by decide, rfl, by decide, by decide⟩⟩

/-- A dry wait and an ABORT of an order with a tile in the merge; a take that is listed and one that is not. -/
theorem test_meets_stopping_failure :
    let s : State := { writingAt (.taking [.density] ⟨false, 1, ⟨0, 0x10000, 1, 0⟩, true⟩) 0 [] with
      merge := (mergingAt 0).merge, intake := (mergingAt 0).intake }
    let dry : State := { s with writer := { s.writer with dryTimer := some 30000 } }
    s.walker.active = some { smallActive with kind := .plate } ∧ s.plate.phase ≠ .shutdown ∧
      s.writer.params ≠ none ∧ s.writer.phase ≠ .discarding ∧ s.writer.phase ≠ .finishing ∧
      dry.writer.dryTimer = some 30000 ∧ s.port.runState = .running ∧ s.walker.taken = none ∧
      s.merge.queue = [smallTile] ∧ 0 ∈ smallTile.slots ++ smallTile.darkSlot.toList ∧
      (slotAt s 0).state = .merging := by decide

/-- DISCARDING with rows, with an end mark and with a failure mark at the head, and with nothing left to do. -/
theorem test_meets_discarding :
    let s := fun queue : List QueueItem =>
      let w := writingAt .none 0 queue
      ({ w with writer := { w.writer with phase := .discarding } } : State)
    let mark : TileMark := ⟨0, 0, 0, 0, .zero⟩
    let done : State := { s [] with writer := { (s []).writer with captureEnded := true, density := .clear } }
    (s [.row smallRow, .endMark mark]).writer.queue = .row smallRow :: [].map QueueItem.row ++ [.endMark mark] ∧
      (∀ item ∈ [QueueItem.endMark mark].head?, isRowEntry item = false) ∧
      (s [.failureMark mark]).writer.queue = .failureMark mark :: [] ∧
      (s [.endMark mark]).writer.phase = .discarding ∧ done.writer.queue = [] ∧ done.writer.captureEnded = true ∧
      done.merge.queue = [] ∧ done.writer.density.current = none ∧ done.writer.positive.current = none ∧
      done.writer.mask.current = none ∧ (s []).writer.captureEnded = false := by decide

theorem test_meets_finishing :
    let w := writingAt .none 0 []
    let s : State := { w with writer := { w.writer with phase := .finishing } }
    s.writer.params = some smallOutput ∧ s.writer.phase = .finishing ∧ s.port.writerRequests = [] ∧
      (due s .finishRecord).port.writerRequests ≠ [] := by decide

/-! ## Orders taken, activated and ended -/

/-- A part with that order TAKEN. -/
def taking (o : TakenOrder) : State := { runningIn .running with walker := { Walker.reset with taken := some o } }

/-- A RESOLVED order with a body, its activation sample out. -/
def resolved (body : OrderBody) : TakenOrder :=
  { smallTaken with setup := .resolved, body := some body, activationSample := some 3 }

def dueWalker (s : State) (purpose : Purpose) : State := presentWalker [writeOf purpose] s

theorem test_meets_activation_sample :
    let o := { smallTaken with setup := .resolved }
    (taking o).walker.taken = some o ∧ o.setup = .resolved ∧ o.ending = false ∧ o.activationSample = none ∧
      (taking o).walker.active = none ∧ (taking o).port.runState = .running ∧ smallTaken.setup ≠ .resolved := by decide

theorem test_meets_activation_answer :
    let s := reading (taking (resolved (.plate smallPlate))) 4 (.cancelActivation 3)
    findRead 6 s.port = some (readOf 4 (.cancelActivation 3)) ∧
      s.walker.taken = some (resolved (.plate smallPlate)) ∧ leNat (zeroBytes 4) = 0 ∧ (zeroBytes 4).length = 4 := by
  decide

/-- ACTIVE granted next for an order of each kind. -/
theorem test_meets_activation :
    ∀ body ∈ [OrderBody.plate smallPlate, .reference smallReference, .service ⟨1, [⟨1, commandPing, 0, []⟩]⟩],
      let s := dueWalker (taking (resolved body)) (.activeState 3)
      nextGrant s = some (.orderWalker, writeOf (.activeState 3)) ∧ canSend s = true ∧
        inWindow s (writeOf (.activeState 3)).address 1 = true ∧ s.walker.taken = some (resolved body) ∧
        (resolved body).activationSample = some 3 ∧ (resolved body).ending = false ∧ (resolved body).body = some body ∧
        s.port.settings = some smallSettings := by decide

theorem test_meets_final_write :
    let a := { smallActive with captureEnded := true, workEnded := true }
    let s : State := { runningIn .running with
      walker := { Walker.reset with active := some a }
      plate := { Plate.reset with phase := .shutdown, shutdownReported := true } }
    s.walker.active = some a ∧ a.ending = false ∧ a.captureEnded = true ∧ a.workEnded = true ∧
      a.slotGroupOut = false ∧ s.plate.phase = .shutdown ∧ s.plate.shutdownReported = true ∧
      smallActive.captureEnded = false := by decide

/-- The final state of a TAKEN order, of an ACTIVE one that owns slot 0 and holds entry 47, and the count. -/
theorem test_meets_final_state :
    let a := { smallActive with holds := [⟨0, 47⟩] }
    let s : State := { runningIn .running with
      walker := { Walker.reset with active := some a, taken := some smallTaken }
      intake := { Intake.reset with slots := ⟨.full, none, some 1⟩ :: List.replicate 15 .reset } }
    (WriteDue (dueWalker s (.finalState false)) .orderWalker (writeOf (.finalState false)) [1] ∧
        WriteDue (dueWalker s (.finalState true)) .orderWalker (writeOf (.finalState true)) [1] ∧
        WriteDue (dueWalker s .ordersFinished) .orderWalker (writeOf .ordersFinished) [1]) ∧
      s.walker.active = some a ∧ s.walker.taken = some smallTaken ∧ s.port.settings = some smallSettings ∧
      (slotAt s 0).owner = some a.number ∧ 0 < s.intake.slots.length :=
  ⟨⟨⟨by decide, rfl, by decide, by decide⟩, ⟨by decide, rfl, by decide, by decide⟩,
    ⟨by decide, rfl, by decide, by decide⟩⟩, by decide⟩

theorem test_meets_taken_recheck :
    let s : State := { taking smallTaken with walker := { (taking smallTaken).walker with recheckTimer := some 20 } }
    s.walker.recheckTimer = some 20 ∧ s.walker.taken = some smallTaken ∧ smallTaken.ending = false := by decide

/-- A sample of the TAKEN order answered 0 and 1, and a POSTED candidate with cancel set. -/
theorem test_meets_taken_sample :
    let o := { smallTaken with recheckSample := some 3 }
    let s := reading (taking o) 4 (.cancelTaken 3)
    let header := leBytes 4 1 ++ zeroBytes 4 ++ leBytes 4 1 ++ zeroBytes 52
    findRead 6 s.port = some (readOf 4 (.cancelTaken 3)) ∧ s.walker.taken = some o ∧ o.recheckSample = some 3 ∧
      o.ending = false ∧ s.port.settings = some smallSettings ∧ leNat (leBytes 4 1) ≠ 0 ∧ (leBytes 4 1).length = 4 ∧
      findRead 6 (reading (examining 0) 64 (.chainHeader 3 0x4000)).port = some (readOf 64 (.chainHeader 3 0x4000)) ∧
      header.length = 64 ∧ leNat (header.take 4) = 1 ∧ leNat ((header.drop 8).take 4) ≠ 0 := by decide

theorem test_meets_withdrawn :
    WriteDue (dueWalker (runningIn .running) .withdrawnState) .orderWalker (writeOf .withdrawnState) [1] :=
  ⟨by decide, rfl, by decide, by decide⟩

/-- A wait's sample of the ACTIVE order, and a PLATE order's at a tile boundary before its last tile. -/
theorem test_meets_active_sample :
    let s := fun (use : SampleUse) (o : PlateOrder) =>
      let c := capturingIn .reserving []
      reading { c with plate := { c.plate with sample := some ⟨3, use⟩, order := some o } } 4 (.cancelPlate 3)
    let o := { smallOrder with body := .plate smallPlate }
    findRead 6 (s .wait smallOrder).port = some (readOf 4 (.cancelPlate 3)) ∧
      (s .wait smallOrder).plate.sample = some ⟨3, .wait⟩ ∧ (s .wait smallOrder).walker.active = some smallActive ∧
      smallActive.ending = false ∧ (s .wait smallOrder).plate.order = some smallOrder ∧
      (s .wait smallOrder).plate.phase ≠ .shutdown ∧ (s .boundary o).plate.order = some o ∧
      (s .boundary o).plate.capture ≠ smallPlate.nx * smallPlate.ny := by decide

/-! ## Resolution and the cache's entries -/

/-- A valid dark with its image in the window, and its role. -/
def smallDark : DirectoryEntry := ⟨1, 2, 0, 3, true, 100, 4, 0x1000⟩

/-- A RESOLVING order with those roles and indices left. -/
def resolving (roles : List DirectoryRole) (rest : List Nat) (read : List DirectoryRead) : TakenOrder :=
  { smallTaken with
    setup := .resolving, body := some (.reference smallReference), roles := roles, toResolve := rest,
      directory := read }

/-- An index at the count, one below it not yet read, one that passes its test and one that fails it. -/
theorem test_meets_roles :
    let window := { smallSettings with windowSize := 0x3000000 }
    let s := fun (role : DirectoryRole) (read : List DirectoryRead) =>
      let t := taking (resolving [role] [] read)
      ({ t with port := { t.port with settings := some window } } : State)
    (s ⟨1, .dark 3⟩ []).port.settings = some window ∧ window.directoryCount ≤ 1 ∧ 0 < window.directoryCount ∧
      directoryFind [] 0 = none ∧ directoryFind [⟨0, smallDark⟩] 0 = some smallDark ∧
      entryPasses (s ⟨0, .dark 3⟩ []) 0 smallDark (.dark 3) = true ∧
      entryPasses (s ⟨0, .dark 2⟩ []) 0 smallDark (.dark 2) = false := by decide

/-- A cache with entry 47, nearest the tail of the LRU list, in a state, and the others not EMPTY. -/
def cachedTail (x : CacheEntry) : State :=
  { taking (resolving [] [0] [⟨0, smallDark⟩]) with
    cache := { Cache.reset with
      entries := List.replicate 47 ⟨.loading, 9, 0, 1, false, none⟩ ++ [x]
      lru := List.range 48 } }

/-- A hit at the entry's generation, a stale entry with no hold and with one. -/
theorem test_meets_carried_entry :
    let x := fun (generation : Word32) (holds : Nat) => (⟨.ready, 0, generation, holds, false, none⟩ : CacheEntry)
    carrying (cachedTail (x 4 1)) 0 = some 47 ∧ (cachedTail (x 4 1)).cache.entries[47]? = some (x 4 1) ∧
      (x 4 1).generation = smallDark.generation ∧ (x 5 0).generation ≠ smallDark.generation ∧ (x 5 0).holds = 0 ∧
      carrying (cachedTail (x 5 1)) 0 = some 47 ∧ (x 5 1).holds ≠ 0 := by decide

/-- An index carried by none: an EMPTY entry and an unheld READY one at the list's tail, and neither. -/
theorem test_meets_victim :
    let ready := fun holds : Nat => (⟨.ready, 8, 4, holds, false, none⟩ : CacheEntry)
    carrying (cachedTail .reset) 0 = none ∧
      (cachedTail .reset).cache.lru.reverse = [] ++ 47 :: (List.range 47).reverse ∧
      (cachedTail .reset).cache.entries[47]? = some .reset ∧ CacheEntry.reset.state = .empty ∧
      carrying (cachedTail (ready 0)) 0 = none ∧
      (∀ m ∈ (cachedTail (ready 0)).cache.lru, (entryAt (cachedTail (ready 0)) m).state ≠ .empty) ∧
      (∀ m ∈ (cachedTail (ready 1)).cache.lru, (entryAt (cachedTail (ready 1)) m).state ≠ .empty ∧
        ¬((entryAt (cachedTail (ready 1)) m).state = .ready ∧ (entryAt (cachedTail (ready 1)) m).holds = 0)) := by
  decide

/-- A failed load with no holder, a TAKEN one and an ACTIVE one. -/
theorem test_meets_failed_load :
    let l : Load := ⟨3, 0x10000, 512, 0⟩
    let c : CacheEntry := { CacheEntry.reset with state := .loading, load := some l }
    let s : State := reading { State.reset with cache := { Cache.reset with
      entries := List.replicate 47 .reset ++ [c] } } 512 (.loadPiece 47 l.op 0)
    let o := { smallTaken with holds := [⟨0, 47⟩] }
    let a := { smallActive with holds := [⟨0, 47⟩] }
    findRead 6 s.port = some (readOf 512 (.loadPiece 47 l.op 0)) ∧ s.cache.entries[47]? = some c ∧
      c.load = some l ∧ s.walker.taken = none ∧ s.walker.active = none ∧ (∃ h ∈ o.holds, h.entry = 47) ∧
      o.ending = false ∧ (∃ h ∈ a.holds, h.entry = 47) ∧ a.ending = false ∧ s.plate.phase ≠ .shutdown := by decide

/-! ## Slots, tone banks and the shutdown -/

/-- A reservation of 3 with 16 FREE slots and with 2; of a REFERENCE order's next frame. -/
theorem test_meets_reservation :
    let s := fun (free count : Nat) => ({ capturingIn .reserving [] with intake := { Intake.reset with
      slots := List.replicate (16 - free) ⟨.full, none, some 1⟩ ++ List.replicate free .reset
      reservation := some count } } : State)
    let granted := fun (free count : Nat) =>
      ((List.range 16).filter fun n => (slotAt (s free count) n).state = .free).take count
    (s 2 3).intake.reservation = some 3 ∧ (s 2 3).plate.order = some smallOrder ∧ granted 2 3 = [14, 15] ∧
      granted 16 3 = [0, 1, 2] ∧ granted 1 1 = [15] ∧
      ({ smallOrder with body := .plate smallPlate } : PlateOrder).body = .plate smallPlate := by decide

/-- A trigger of a DAMAGED slot with 4 outstanding that carry the next tags round to 0, with 5, and of a FREE slot. -/
theorem test_meets_trigger :
    let e := fun tag : Byte => (⟨tag, 3, .streaming, 0, false⟩ : Trigger)
    let s := fun (tags : List Byte) (slot : Nat) => ({ capturingIn .exposing [smallMember] with
      intake := { Intake.reset with
        nextTag := 254, triggers := tags.map e, waitingTrigger := some ⟨0, slot, 3⟩
        slots := ⟨.damaged, none, some 1⟩ :: List.replicate 15 .reset } } : State)
    (slotAt (s [254, 255, 0, 1] 0) 0).state = .damaged ∧ (slotAt (s [] 0) 0).owner = some smallActive.number ∧
      (s [254, 255, 0, 1] 0).intake.triggers.length < 5 ∧ 5 ≤ (s [254, 255, 0, 1, 7] 0).intake.triggers.length ∧
      (slotAt (s [] 1) 1).state = .free ∧ (s [] 1).plate.order = some smallOrder ∧
      skipTags [254, 255, 0, 1] 5 254 = 2 := by decide

/-- An exposure whose slot fills with its tag, outstanding; a tag that is not listed. -/
theorem test_meets_cancel :
    let s : State := { capturingIn .exposing [smallMember] with intake := { Intake.reset with
      triggers := [⟨5, 2, .awaitingExposed, 0, false⟩]
      slots := [.reset, .reset, ⟨.filling, some 5, some 1⟩] ++ List.replicate 13 .reset } }
    triggerOf 5 s = some ⟨5, 2, .awaitingExposed, 0, false⟩ ∧ (∀ e ∈ s.intake.triggers, e.tag ≠ 6) ∧
      s.plate.members[0]? = some smallMember ∧ smallMember.exposureTimer = some 2100 ∧
      smallMember.slot < s.intake.slots.length ∧ (slotAt s smallMember.slot).state = .filling ∧
      (slotAt s smallMember.slot).tag = some 5 := by decide

/-- The last step of a PLATE order's resolution with either bank FREE, for the built-in and for a host table. -/
theorem test_meets_tone_bank :
    let body := fun address : Nat => OrderBody.plate { smallPlate with toneTable := address }
    let o := fun address : Nat => { resolving [] [] [] with body := some (body address) }
    let s : State := { taking (o 0x8000) with walker := { (taking (o 0x8000)).walker with
      bank0 := ⟨.loaded, some 0, .builtIn, [], 0⟩ } }
    (taking (o 0)).walker.bank0.state = .free ∧ (o 0).ending = false ∧ (o 0).reading = none ∧
      (o 0).setup = .resolving ∧ (o 0).roles = [] ∧ (o 0).toResolve = [] ∧ s.walker.bank0.state ≠ .free ∧
      s.walker.bank1.state = .free := by decide

/-- A table's last read in bank 0 and one before it in bank 1; an order that holds no loading bank. -/
theorem test_meets_tone_read :
    let bank : ToneBank := ⟨.loading, some 1, .builtIn, [], 1⟩
    let s := reading { taking smallTaken with walker := { (taking smallTaken).walker with bank0 := bank } } 512
      (.tonePiece 1 7680)
    let t := reading { capturingIn .gauging [] with
      walker := { Walker.reset with active := some smallActive, bank1 := { bank with awaited := 2 } } } 512
      (.tonePiece 1 7680)
    findRead 6 s.port = some (readOf 512 (.tonePiece 1 7680)) ∧ s.walker.bank0 = bank ∧
      (zeroBytes 512).length = 512 ∧ smallTaken.number = 1 ∧ smallTaken.ending = false ∧
      t.walker.bank0.state ≠ .loading ∧ t.walker.bank1.state = .loading ∧ t.walker.taken = none ∧
      t.walker.active = some smallActive ∧ smallActive.number = 1 ∧ State.reset.walker.bank1.state ≠ .loading := by
  decide +kernel

/-- SHUTDOWN with the moving mark, with the panel and with the ring not DARK, quiet, and of a SERVICE order. -/
theorem test_meets_shutdown :
    let s := fun (o : PlateOrder) (moving : Bool) (panel : PanelState) (ring : RingState) =>
      ({ capturingIn .shutdown [] with plate := { (capturingIn .shutdown []).plate with
          order := some o, movingMark := moving, panel := panel, ring := ring } } : State)
    let service : OrderBody := .service ⟨1, [⟨1, commandPing, 0, []⟩]⟩
    (s smallOrder true .unsure .unsure).plate.movingMark = true ∧
      (s smallOrder false .unsure .dark).plate.panel ≠ .dark ∧
      (s smallOrder false .dark .unsure).plate.ring ≠ .dark ∧
      (s smallOrder false .dark .dark).plate.fallbackMark = false ∧
      (s smallOrder false .dark .dark).plate.awaiting = none ∧
      (s smallOrder false .dark .dark).plate.shutdownReported = false ∧
      (s smallOrder false .dark .dark).bus.line ≠ .clearing ∧ queueHasRoom (s smallOrder true .dark .dark) = true ∧
      (s { smallOrder with body := service } false .dark .dark).plate.order =
        some { smallOrder with body := service } := by decide

/-- A shutdown telegram answered DONE_NOW, ACCEPTED, REFUSED and, after five BUSY replies, BUSY; its third silent slot.
-/
theorem test_meets_shutdown_answer :
    let r := { newRequest 7 .plate 4 2 commandDark [] with busy := 5, spoiled := 2 }
    let s : State := { onTheLine .receiving r with
      walker := { Walker.reset with active := some smallActive }
      plate := { (capturingIn .shutdown []).plate with awaiting := some .shutdownDark } }
    s.bus.line = .receiving ∧ s.bus.attempt = some r.number ∧ findRequest r.number s.bus = some r ∧
      r.requester = .plate ∧ s.plate.awaiting = some .shutdownDark ∧ s.plate.phase = .shutdown ∧
      s.walker.active = some smallActive ∧ readReply r.command (replyBytes 1) = some (1, []) ∧
      readReply r.command (replyBytes 2) = some (2, []) ∧ readReply r.command (replyBytes 3) = some (3, []) ∧
      readReply r.command (replyBytes 4) = some (4, []) ∧ 5 ≤ r.busy ∧ r.spoiled = 2 := by decide +kernel

/-- A fallback with no pulse on the line, with one of run control's, and the bus controller's own pulse in SHUTDOWN. -/
theorem test_meets_fallback :
    let s := fun (pending : Option (List ClearRequester)) (own : Bool) => ({ capturingIn .shutdown [] with
      bus := { Bus.reset with line := .clearing, pendingClear := pending, clearOwn := own }
      plate := { (capturingIn .shutdown []).plate with fallbackMark := true } } : State)
    (s none false).plate.fallbackMark = true ∧ (s none false).bus.queue = [] ∧ (s none false).bus.rateRequest = none ∧
      ClearRequester.plate ∉ [ClearRequester.runControl] ∧ (s (some [.busController]) true).bus.clearOwn = true ∧
      (s none true).bus.start = none ∧ (s none true).port.runState ≠ .aborting ∧
      plateService (s none true) = false ∧ (s none true).plate.shutdownReported = false ∧
      (s none true).walker.active = some smallActive := by decide

end Sys2Proof.Machine
end

section
/-! PROOFS. The decision of one pixel, its DENSITY word and the mask bit (R30, R35 to R39, R42 to R45, R47). -/

namespace Sys2Proof.Machine

/-! ## The clamped bounds (R131) -/

theorem clampPlate_bounds (b : PlateBody) : 1 ≤ (clampPlate b).floor ∧
    (clampPlate b).floor < (clampPlate b).ceiling ∧ (clampPlate b).ceiling ≤ 16383 := by
  simp only [clampPlate, clampTo]
  omega

theorem one_le_clampDarkfield_threshold (d : DarkfieldSpec) : 1 ≤ (clampDarkfield d).threshold :=
  Nat.le_max_left 1 d.threshold

/-- MASK is dropped where the order has no dark-field member (R131). -/
theorem clampPlate_mask_of_no_darkfield {b : PlateBody} (noMember : (clampPlate b).darkfield = none) :
    (clampPlate b).mask = false := by
  have unset : b.darkfield = none := Option.map_eq_none_iff.mp noMember
  simp [clampPlate, unset]

/-! ## The members of a pixel -/

theorem memberValid_iff (b : MergeBounds) (m : MemberPixel) :
    memberValid b m = true ↔ m.sample ≤ b.ceiling ∧ b.floor ≤ m.sample - m.dark := by
  rw [memberValid, Bool.and_eq_true, decide_eq_true_iff, decide_eq_true_iff, memberSignal]

theorem mem_of_smallestDose {l : List MemberPixel} {r : MemberPixel} (h : smallestDose l = some r) : r ∈ l := by
  induction l with
  | nil => cases h
  | cons m rest ih =>
    simp only [smallestDose] at h
    split at h
    next => simp_all
    next x found =>
      split at h
      next => simp_all
      next => exact List.mem_cons_of_mem m (ih (found.trans h))

theorem smallestDose_cons_of_le {m : MemberPixel} {rest : List MemberPixel} (le : ∀ r ∈ rest, m.dose ≤ r.dose) :
    smallestDose (m :: rest) = some m := by
  cases found : smallestDose rest with
  | none => simp [smallestDose, found]
  | some r => simp [smallestDose, found, le r (mem_of_smallestDose found)]

/-- R38's tie goes to the first in plan order: every dose before `j` is greater, none after it is smaller. -/
theorem smallestDose_append_cons {before after : List MemberPixel} {j : MemberPixel}
    (greater : ∀ m ∈ before, j.dose < m.dose) (le : ∀ m ∈ after, j.dose ≤ m.dose) :
    smallestDose (before ++ j :: after) = some j := by
  induction before with
  | nil => exact smallestDose_cons_of_le le
  | cons m rest ih =>
    have found := ih fun x hx => greater x (List.mem_cons_of_mem m hx)
    have passed : ¬m.dose ≤ j.dose := Nat.not_le.mpr (greater m List.mem_cons_self)
    simp [smallestDose, found, passed]

/-! ## The decision, case by case (R35 to R39) -/

section
variable {b : MergeBounds} {flat flatDose : Nat} {members : List MemberPixel}

theorem decidePixel_of_flat_defect (defect : flat < b.flatFloor) :
    decidePixel b flat flatDose members = ⟨.clippedLow, 16383, false, true⟩ := if_pos defect

theorem decidePixel_of_valid (sound : b.flatFloor ≤ flat) (anyValid : members.filter (memberValid b) ≠ []) :
    let valid := members.filter (memberValid b)
    decidePixel b flat flatDose members = ratioResult (if valid.length = 1 then .single else .merged)
      ((valid.map memberSignal).sum * flatDose) (flat * (valid.map MemberPixel.dose).sum) := by
  obtain ⟨m, rest, valid⟩ := List.exists_cons_of_ne_nil anyValid
  simp [decidePixel, Nat.not_lt.mpr sound, valid]

theorem decidePixel_of_smallestDose (sound : b.flatFloor ≤ flat) (noValid : members.filter (memberValid b) = [])
    {j : MemberPixel} (smallest : smallestDose (members.filter fun m => b.ceiling < m.sample) = some j) :
    decidePixel b flat flatDose members =
      ratioResult .clippedHigh (max (b.ceiling - j.dark) 1 * flatDose) (flat * j.dose) := by
  simp [decidePixel, Nat.not_lt.mpr sound, noValid, smallest]

theorem decidePixel_of_no_smallestDose (sound : b.flatFloor ≤ flat) (noValid : members.filter (memberValid b) = [])
    (noClipped : smallestDose (members.filter fun m => b.ceiling < m.sample) = none) :
    decidePixel b flat flatDose members = ⟨.clippedLow, 16383, false, false⟩ := by
  simp [decidePixel, Nat.not_lt.mpr sound, noValid, noClipped, Config.sampleMax]

/-- The smallest dose among the clipped members is found in plan order through the members that are not clipped. -/
theorem smallestDose_clipped {before after : List MemberPixel} {j : MemberPixel} (clipped : b.ceiling < j.sample)
    (greater : ∀ m ∈ before, b.ceiling < m.sample → j.dose < m.dose)
    (le : ∀ m ∈ after, b.ceiling < m.sample → j.dose ≤ m.dose) :
    smallestDose ((before ++ j :: after).filter fun m => b.ceiling < m.sample) = some j := by
  rw [List.filter_append, List.filter_cons_of_pos (by simpa using clipped)]
  refine smallestDose_append_cons (fun m hm => ?_) fun m hm => ?_
  · obtain ⟨mem, high⟩ := List.mem_filter.mp hm
    exact greater m mem (of_decide_eq_true high)
  · obtain ⟨mem, high⟩ := List.mem_filter.mp hm
    exact le m mem (of_decide_eq_true high)

theorem decidePixel_of_too_dark (sound : b.flatFloor ≤ flat) (noValid : members.filter (memberValid b) = [])
    (dark : ∀ m ∈ members, m.sample ≤ b.ceiling) :
    decidePixel b flat flatDose members = ⟨.clippedLow, 16383, false, false⟩ := by
  have noClipped : members.filter (fun m => b.ceiling < m.sample) = [] :=
    List.filter_eq_nil_iff.mpr fun m hm => by simpa using dark m hm
  refine decidePixel_of_no_smallestDose sound noValid ?_
  rw [noClipped]
  rfl

end

/-- What a decision can be: CLIPPED_LOW with the highest code, or the ratio of some members in another class. -/
theorem decidePixel_cases (b : MergeBounds) (flat flatDose : Nat) (members : List MemberPixel) :
    (∃ defect, decidePixel b flat flatDose members = ⟨.clippedLow, 16383, false, defect⟩) ∨
      ∃ cls num den, cls ≠ .clippedLow ∧ decidePixel b flat flatDose members = ratioResult cls num den := by
  by_cases defect : flat < b.flatFloor
  · exact .inl ⟨true, decidePixel_of_flat_defect defect⟩
  have sound := Nat.not_lt.mp defect
  by_cases noValid : members.filter (memberValid b) = []
  · cases smallest : smallestDose (members.filter fun m => b.ceiling < m.sample) with
    | none => exact .inl ⟨false, decidePixel_of_no_smallestDose sound noValid smallest⟩
    | some j => exact .inr ⟨.clippedHigh, _, _, nofun, decidePixel_of_smallestDose sound noValid smallest⟩
  · refine .inr ⟨_, _, _, ?_, decidePixel_of_valid sound noValid⟩
    split <;> nofun

/-! ## Codes and the DENSITY word (R42 to R44) -/

theorem densityCode_le (num den : Nat) : densityCode num den ≤ 16383 := by
  unfold densityCode
  split
  · exact Nat.zero_le _
  · exact Nat.min_le_right _ _

theorem decidePixel_code_le (b : MergeBounds) (flat flatDose : Nat) (members : List MemberPixel) :
    (decidePixel b flat flatDose members).code ≤ 16383 := by
  obtain ⟨_, low⟩ | ⟨_, num, den, -, ratio⟩ := decidePixel_cases b flat flatDose members
  · rw [low]
  · rw [ratio]
    exact densityCode_le num den

theorem decidePixel_code_of_clippedLow {b : MergeBounds} {flat flatDose : Nat} {members : List MemberPixel}
    (cls : (decidePixel b flat flatDose members).cls = .clippedLow) :
    (decidePixel b flat flatDose members).code = 16383 := by
  obtain ⟨_, low⟩ | ⟨_, num, den, other, ratio⟩ := decidePixel_cases b flat flatDose members
  · rw [low]
  · rw [ratio] at cls
    exact absurd cls other

theorem classNumber_le (c : PixelClass) : classNumber c ≤ 3 := by cases c <;> decide

/-- Class and code of a word whose code has 14 bits are read back by division. -/
theorem densityWord_readBack {r : PixelResult} (code : r.code ≤ 16383) : densityWord r < 65536 ∧
    densityWord r / 16384 = classNumber r.cls ∧ densityWord r - 16384 * classNumber r.cls = r.code := by
  have := classNumber_le r.cls
  simp only [densityWord]
  omega

theorem densityWord_of_clippedLow {r : PixelResult} (cls : r.cls = .clippedLow) (code : r.code = 16383) :
    densityWord r = 65535 := by
  simp [densityWord, cls, code, classNumber]

theorem densityBytes_length (mirror : Bool) (results : List PixelResult) :
    (densityBytes mirror results).length = 2 * results.length := by
  rw [densityBytes, flatMap_pair_length _ fun _ => rfl, mirrored_length]

/-! ## Mask bits (R47) -/

theorem maskBit_iff (sample dark threshold : Nat) : maskBit sample dark threshold = true ↔ threshold < sample - dark :=
  decide_eq_true_iff

theorem rowMask_of_no_darkfield {p : MergeParams} {t : MergeTile} (s : State)
    (noMember : p.darkfield = none ∨ t.darkSlot = none) : rowMask s p t = [] := by
  unfold rowMask
  split
  next member slot => simp [member, slot] at noMember
  next => rfl

/-! ## The statements -/

/-- The manual's four worked pixels: one valid member, two, a clipped one and a flat defect. -/
theorem densityWord_worked_pixels :
    densityWord (decidePixel ⟨64, 15800, 64⟩ 12000 100 [⟨9000, 200, 400⟩]) = 19402 ∧
      densityWord (decidePixel ⟨64, 15800, 64⟩ 12000 100 [⟨9000, 200, 400⟩, ⟨2400, 190, 100⟩]) = 3016 ∧
      densityWord (decidePixel ⟨64, 15800, 64⟩ 12000 100 [⟨16383, 200, 400⟩, ⟨16383, 210, 1600⟩]) = 34767 ∧
      densityWord (decidePixel ⟨64, 15800, 64⟩ 40 100 [⟨9000, 200, 400⟩, ⟨2400, 190, 100⟩]) = 65535 := by
  decide +kernel

/-- Settles O43, by the decision's equation in each of its cases and by what a decision can be. -/
theorem pixelDecision : Obligations.PixelDecision := by
  refine ⟨clampPlate_bounds, memberValid_iff, fun b flat flatDose members => ⟨?defect, ?valid, ?clipped, ?tooDark⟩,
    ⟨fun b flat flatDose members => ⟨?range, ?lowCode⟩, fun num den => rfl⟩, ?worked⟩
  case defect => exact decidePixel_of_flat_defect
  case valid => exact decidePixel_of_valid
  case clipped =>
    intro sound noValid before j after members_eq high greater le
    subst members_eq
    exact decidePixel_of_smallestDose sound noValid (smallestDose_clipped high greater le)
  case tooDark => exact decidePixel_of_too_dark
  case range => exact decidePixel_code_le b flat flatDose members
  case lowCode => exact decidePixel_code_of_clippedLow
  case worked =>
    obtain ⟨one, two, clipped, defect⟩ := densityWord_worked_pixels
    exact ⟨one, two, clipped, defect, rfl, rfl, rfl⟩

/-- Settles O44: a code has 14 bits, so the word holds it beside its class; the mask bit is a comparison. -/
theorem densityWordHoldsClassAndCode : Obligations.DensityWordHoldsClassAndCode := by
  refine ⟨fun b flat flatDose members => ⟨rfl, ?word⟩, ⟨rfl, rfl, rfl, rfl⟩,
    fun mirror results => ⟨rfl, ?bytes⟩, fun sample dark threshold positive => ?mask,
    one_le_clampDarkfield_threshold, fun _ => clampPlate_mask_of_no_darkfield, fun s _ _ => rowMask_of_no_darkfield s⟩
  case word =>
    obtain ⟨below, cls, code⟩ := densityWord_readBack (decidePixel_code_le b flat flatDose members)
    exact ⟨below, cls, code, fun low => densityWord_of_clippedLow low (decidePixel_code_of_clippedLow low)⟩
  case bytes =>
    intro full
    rw [densityBytes_length, full]
  case mask =>
    rw [maskBit_iff]
    omega

end Sys2Proof.Machine
end

section
/-! PROOFS. The machine as a whole: what a command keeps, by whether it lands data in frame memory, sets an input, or
does neither (00, 95). -/

namespace Sys2Proof.Machine

/-! ## What commands keep -/

/-- The commands that may write frame memory, and the power-on reset that makes it undefined. -/
def landsData : Instr → Bool
  | .readCompletion _ _ | .fifoRowWritten | .frameAccumulated | .referenceRowBuilt | .powerOnReset => true
  | _ => false

/-- The commands of the port's inputs (R177, R189). -/
def setsInputs : Instr → Bool
  | .linkStateChange _ | .functionEnableChange _ _ => true
  | _ => false

theorem execNoisePulse_keeps (s : State) : ∃ t, exec .noisePulse s = .next t ∧ Keeps s t := by
  refine ⟨_, rfl, ?_⟩
  split
  · exact modBus_keeps (fun _ => le_rfl) (.refl s)
  · exact .refl s

/-- A command that neither lands data nor sets an input keeps frame memory, the bounds and what lies outside. -/
theorem exec_keeps {c : Instr} (lands : landsData c = false) (sets : setsInputs c = false) (s : State) :
    ∃ t, exec c s = .next t ∧ Keeps s t := by
  have k := Keeps.refl s
  cases c with
  | start => exact ⟨_, rfl, settle_keeps (writeStart_keeps k)⟩
  | stop => exact ⟨_, rfl, settle_keeps (writeStop_keeps k)⟩
  | abort => exact ⟨_, rfl, settle_keeps (writeAbort_keeps k)⟩
  | reset => exact ⟨_, rfl, softReset_keeps k⟩
  | controlSeveralCommands => exact ⟨_, rfl, writeControl_keeps k⟩
  | anchorRegisterWrite => exact ⟨_, rfl, writeAnchor_keeps k⟩
  | statusWrite => exact ⟨_, rfl, writeStatus_keeps k⟩
  | causeEnableWrite => exact ⟨_, rfl, writeEnables_keeps k⟩
  | nudge => exact ⟨_, rfl, settle_keeps (nudgePart_keeps k)⟩
  | otherRegisterWrite => exact ⟨_, rfl, writeRegister_keeps k⟩
  | functionReset => exact ⟨_, rfl, softReset_keeps k⟩
  | arbiterGrant => exact ⟨_, rfl, settle_keeps (grantTurn_keeps k)⟩
  | readErrorCompletion => exact ⟨_, rfl, settle_keeps (errorRead_keeps k)⟩
  | readCompletionTimeout => exact ⟨_, rfl, settle_keeps (timeoutRead_keeps k)⟩
  | walkRecheckExpiry => exact ⟨_, rfl, settle_keeps (walkRecheck_keeps k)⟩
  | gapComplete => exact ⟨_, rfl, settle_keeps (gapReached_keeps k)⟩
  | headWaitTimeout => exact ⟨_, rfl, settle_keeps (headWaited_keeps k)⟩
  | arbitrationLost => exact ⟨_, rfl, settle_keeps (arbitrationLost_keeps k)⟩
  | sendMismatch => exact ⟨_, rfl, settle_keeps (sendMismatch_keeps k)⟩
  | telegramSent => exact ⟨_, rfl, settle_keeps (telegramOut_keeps k)⟩
  | replyReceived => exact ⟨_, rfl, settle_keeps (replyCame_keeps k)⟩
  | replySlotTimeout => exact ⟨_, rfl, settle_keeps (slotSilent_keeps k)⟩
  | slotDominantEarly => exact ⟨_, rfl, settle_keeps (slotDisturbed_keeps k)⟩
  | busyRestExpiry => exact ⟨_, rfl, settle_keeps (restOver_keeps k)⟩
  | breakOff => exact ⟨_, rfl, settle_keeps (brokenOff_keeps k)⟩
  | telegramReceived => exact ⟨_, rfl, settle_keeps (telegramCame_keeps k)⟩
  | arrived => exact ⟨_, rfl, settle_keeps (receiveNotice_keeps plateArrived_keeps k)⟩
  | jammed => exact ⟨_, rfl, settle_keeps (receiveNotice_keeps deliverJammed_keeps k)⟩
  | hot => exact ⟨_, rfl, settle_keeps (receiveNotice_keeps deliverHot_keeps k)⟩
  | lidOpened => exact ⟨_, rfl, settle_keeps (receiveNotice_keeps deliverLidOpened_keeps k)⟩
  | lidClosed => exact ⟨_, rfl, settle_keeps (receiveNotice_keeps deliverLidClosed_keeps k)⟩
  | ownReplySent => exact ⟨_, rfl, settle_keeps (replyOver_keeps k)⟩
  | falseStart => exact ⟨_, rfl, settle_keeps (falseStart_keeps k)⟩
  | noisePulse => exact execNoisePulse_keeps s
  | clearPulseEnd => exact ⟨_, rfl, settle_keeps (pulseOver_keeps k)⟩
  | trimPulseMeasured => exact ⟨_, rfl, settle_keeps (trimPulse_keeps k)⟩
  | plateRecheckExpiry => exact ⟨_, rfl, settle_keeps (plateRecheck_keeps k)⟩
  | motionTimerExpiry => exact ⟨_, rfl, settle_keeps (motionExpired_keeps k)⟩
  | exposureTimerExpiry => exact ⟨_, rfl, settle_keeps (exposureExpired_keeps k)⟩
  | frameTimerExpiry => exact ⟨_, rfl, settle_keeps (frameExpired_keeps k)⟩
  | exposedPacket => exact ⟨_, rfl, settle_keeps (exposedArrived_keeps k)⟩
  | rowPacket => exact ⟨_, rfl, settle_keeps (rowArrived_keeps k)⟩
  | frameEndPacket => exact ⟨_, rfl, settle_keeps (frameEndArrived_keeps k)⟩
  | ackPacket => exact ⟨_, rfl, settle_keeps (ackArrived_keeps k)⟩
  | ackTimerExpiry => exact ⟨_, rfl, settle_keeps (ackTimeout_keeps k)⟩
  | unknownPacket => exact ⟨_, rfl, k⟩
  | rowComputed => exact ⟨_, rfl, settle_keeps (rowComputed_keeps k)⟩
  | dryRecheckExpiry => exact ⟨_, rfl, settle_keeps (dryRecheck_keeps k)⟩
  | dryTimerExpiry => exact ⟨_, rfl, settle_keeps (dryExpired_keeps k)⟩
  | readCompletion | fifoRowWritten | frameAccumulated | referenceRowBuilt | powerOnReset => cases lands
  | linkStateChange | functionEnableChange => cases sets

/-- The port changed, but for the reads in progress. -/
theorem modPort_inputs_inv {f : Port → Port} {s : State} (h : Inv s) (hf : ∀ p, (f p).reads = p.reads) :
    Inv (modPort f s) :=
  ⟨⟨h.bounded.slots, h.bounded.entries, by simpa [hf] using h.bounded.reads, h.bounded.triggers, h.bounded.fifo,
    h.bounded.pins, h.bounded.once, h.bounded.queue⟩, h.memory⟩

/-- Every command answers a next state (log 37), and keeps the invariant. -/
theorem exec_next (c : Instr) (s : State) : ∃ t, exec c s = .next t ∧ (Inv s → Inv t) := by
  cases lands : landsData c with
  | false =>
    cases sets : setsInputs c with
    | false =>
      obtain ⟨t, e, k⟩ := exec_keeps lands sets s
      exact ⟨t, e, Inv.of_keeps k⟩
    | true =>
      cases c with
      | linkStateChange => exact ⟨_, rfl, fun h => modPort_inputs_inv h fun _ => rfl⟩
      | functionEnableChange => exact ⟨_, rfl, fun h => modPort_inputs_inv h fun _ => rfl⟩
      | _ => cases sets
  | true =>
    cases c with
    | readCompletion => exact ⟨_, rfl, fun h => settle_inv (completeRead_inv h)⟩
    | fifoRowWritten => exact ⟨_, rfl, fun h => settle_inv (fifoRowDone_inv h)⟩
    | frameAccumulated => exact ⟨_, rfl, fun h => settle_inv (accumulateFrame_inv h)⟩
    | referenceRowBuilt => exact ⟨_, rfl, fun h => settle_inv (buildRow_inv h)⟩
    | powerOnReset => exact ⟨_, rfl, fun _ => powerOn_inv s⟩
    | _ => cases lands

theorem exec_preserves_inv {c : Instr} {s t : State} (e : exec c s = .next t) (h : Inv s) : Inv t := by
  obtain ⟨u, eu, inv⟩ := exec_next c s
  cases eu.symm.trans e
  exact inv h

/-- What lies outside the blocks is the same in `t` as in `s`, but for what `c` is there to change. -/
structure OutsideLasts (c : Instr) (s t : State) : Prop where
  queue : t.pending = s.pending
  powerOns : c ≠ .powerOnReset → t.powerOns = s.powerOns
  inputs : setsInputs c = false → inputsOf t.port = inputsOf s.port

theorem SameOutside.lasts {c : Instr} {s t : State} (h : SameOutside s t) : OutsideLasts c s t :=
  ⟨h.queue, fun _ => h.powerOns, fun _ => h.inputs⟩

theorem exec_outside (c : Instr) (s : State) : ∃ t, exec c s = .next t ∧ OutsideLasts c s t := by
  have k := SameOutside.refl s
  cases lands : landsData c with
  | false =>
    cases sets : setsInputs c with
    | false =>
      obtain ⟨t, e, keeps⟩ := exec_keeps lands sets s
      exact ⟨t, e, keeps.outside.lasts⟩
    | true =>
      cases c with
      | linkStateChange => exact ⟨_, rfl, rfl, fun _ => rfl, fun no => nomatch no⟩
      | functionEnableChange => exact ⟨_, rfl, rfl, fun _ => rfl, fun no => nomatch no⟩
      | _ => cases sets
  | true =>
    cases c with
    | readCompletion => exact ⟨_, rfl, (settle_outside (completeRead_outside k)).lasts⟩
    | fifoRowWritten => exact ⟨_, rfl, (settle_outside (fifoRowDone_outside k)).lasts⟩
    | frameAccumulated => exact ⟨_, rfl, (settle_outside (accumulateFrame_outside k)).lasts⟩
    | referenceRowBuilt => exact ⟨_, rfl, (settle_outside (buildRow_outside k)).lasts⟩
    | powerOnReset => exact ⟨_, rfl, rfl, fun no => absurd rfl no, fun _ => rfl⟩
    | _ => cases lands

/-- A read's data keeps frame memory where the read is none of a load. -/
theorem readDone_keeps {address : Nat} {purpose : Purpose} {data : List Byte} {s₀ s : State}
    (noLoad : ∀ entry op offset, purpose ≠ .loadPiece entry op offset) (h : Keeps s₀ s) :
    Keeps s₀ (readDone address purpose data s) := by
  unfold readDone
  split
  · exact chainLinkRead_keeps h
  · exact chainHeaderRead_keeps h
  · exact bodyRead_keeps h
  · exact sampleAnswered_keeps h
  · exact takenSampled_keeps h
  · exact activationSampled_keeps h
  · exact toneRead_keeps h
  · exact directoryRead_keeps h
  · exact absurd rfl (noLoad _ _ _)
  · exact writeBackRead_keeps h
  · exact descriptorRead_keeps h
  · exact poolEntryRead_keeps h
  · exact anchorPieceRead_keeps h
  · exact h

theorem completeRead_keeps {number : Nat} {data : List Byte} {s : State}
    (noLoad : ∀ r, findRead number s.port = some r → ∀ entry op offset, r.purpose ≠ .loadPiece entry op offset) :
    Keeps s (completeRead number data s) := by
  unfold completeRead
  have k := Keeps.refl s
  split
  · exact k
  · next r found =>
    split
    · exact k
    split
    · exact readDone_keeps (noLoad r found) (removeRead_keeps k)
    · exact failRead_keeps k

/-- The frame is left alone by every command that lands no data. -/
theorem exec_frame {c : Instr} (lands : landsData c = false) (s : State) :
    ∃ t, exec c s = .next t ∧ t.frame = s.frame := by
  cases sets : setsInputs c with
  | false =>
    obtain ⟨t, e, k⟩ := exec_keeps lands sets s
    exact ⟨t, e, k.frame⟩
  | true =>
    cases c with
    | linkStateChange => exact ⟨_, rfl, rfl⟩
    | functionEnableChange => exact ⟨_, rfl, rfl⟩
    | _ => cases sets

/-! ## The statements -/

/-- Settles O4: the step runs a command on the state with the queue's rest, which the invariant does not read. -/
theorem stepKeepsTheInvariant : Obligations.StepKeepsTheInvariant := by
  intro s t inv e
  unfold step at e
  split at e
  · cases e
    exact inv
  · exact exec_preserves_inv e ⟨⟨inv.bounded.slots, inv.bounded.entries, inv.bounded.reads, inv.bounded.triggers,
      inv.bounded.fifo, inv.bounded.pins, inv.bounded.once, inv.bounded.queue⟩, inv.memory⟩

/-- Settles O5: by the commands that land data, a read's data by its purpose. -/
theorem otherCommandsLeaveFrameMemory : Obligations.OtherCommandsLeaveFrameMemory := by
  intro c s t e noLoad noRow noFrame noBuilt noPower a
  suffices same : ∃ t, exec c s = .next t ∧ t.frame = s.frame by
    obtain ⟨u, eu, frame⟩ := same
    cases eu.symm.trans e
    rw [frame]
  cases lands : landsData c with
  | false => exact exec_frame lands s
  | true =>
    cases c with
    | readCompletion n data => exact ⟨_, rfl, (settle_keeps (completeRead_keeps (noLoad n data rfl))).frame⟩
    | fifoRowWritten => exact absurd rfl noRow
    | frameAccumulated => exact absurd rfl noFrame
    | referenceRowBuilt => exact absurd rfl noBuilt
    | powerOnReset => exact absurd rfl noPower
    | _ => cases lands

/-- Settles O6. -/
theorem commandsLeaveQueueAndInputs : Obligations.CommandsLeaveQueueAndInputs := by
  refine ⟨fun c s t e => ?others, fun s up memory message => ⟨rfl, rfl⟩⟩
  obtain ⟨u, eu, queue, powerOns, inputs⟩ := exec_outside c s
  cases eu.symm.trans e
  refine ⟨queue, powerOns, fun noLink noEnable => inputs ?_⟩
  cases c with
  | linkStateChange up => exact absurd rfl (noLink up)
  | functionEnableChange memory message => exact absurd rfl (noEnable memory message)
  | _ => rfl

/-- Settles O1. -/
theorem stepRunsTheFrontCommand : Obligations.StepRunsTheFrontCommand := fun _ _ _ => rfl

/-- Settles O2: a step is a command's, or idle. -/
theorem everyStepGoesOn : Obligations.EveryStepGoesOn := by
  have every : ∀ (c : Instr) (s : State), ∃ t, exec c s = .next t := fun c s =>
    let ⟨t, e, _⟩ := exec_next c s
    ⟨t, e⟩
  refine ⟨⟨every, fun s => ?stepsOn⟩, fun s empty => ?idle⟩
  case stepsOn =>
    unfold StepsOn step
    split
    · exact ⟨s, rfl⟩
    · exact every _ _
  case idle =>
    unfold step
    rw [empty]

/-- Settles O3: the state after a power-on reset meets the invariant, and that after reset has the same blocks. -/
theorem resetMeetsTheInvariant : Obligations.ResetMeetsTheInvariant :=
  ⟨⟨rfl, rfl, Nat.zero_le _, Nat.zero_le _, Nat.zero_le _, Nat.zero_le _, carriedOnce_reset, Nat.zero_le _⟩,
    reset_memory_wf⟩

end Sys2Proof.Machine
end

section
/-! PROOFS. Resets, register accesses, the causes and the interrupt (R171, R172, R181, R188, R189, R203). -/

namespace Sys2Proof.Machine

/-! ## Words made of numbers -/

/-- A bit of a number, as the digit it is. -/
theorem testBit_eq_iff (n k : Nat) (b : Bool) : n.testBit k = b ↔ n / 2 ^ k % 2 = b.toNat := by
  rw [Nat.testBit_eq_decide_div_mod_eq]
  have := Nat.mod_two_eq_zero_or_one (n / 2 ^ k)
  cases b <;> simp only [decide_eq_true_eq, decide_eq_false_iff_not, Bool.toNat_true, Bool.toNat_false]
  omega

theorem runStateValue_lt (r : RunState) : runStateValue r < 8 := by cases r <;> decide

theorem faultReasonValue_lt (r : FaultReason) : faultReasonValue r < 16 := by cases r <;> decide

/-- The causes' word is six digits from bit 8 on. -/
theorem causeBits_lt (c : CauseSet) : causeBits c < 2 ^ 14 := by
  obtain ⟨a, b, c, d, e, f⟩ := c
  have := Bool.toNat_le a
  have := Bool.toNat_le b
  have := Bool.toNat_le c
  have := Bool.toNat_le d
  have := Bool.toNat_le e
  have := Bool.toNat_le f
  simp only [causeBits]
  omega

/-- The causes read back from a word that holds them at bit 8, with less below and any digits from bit 14 on. -/
theorem causesOf_ofNat {c : CauseSet} {low high : Nat} (below : low < 256) :
    causesOf (BitVec.ofNat 32 (low + causeBits c + 16384 * high)) = c := by
  obtain ⟨a, b, c, d, e, f⟩ := c
  have := Bool.toNat_le a
  have := Bool.toNat_le b
  have := Bool.toNat_le c
  have := Bool.toNat_le d
  have := Bool.toNat_le e
  have := Bool.toNat_le f
  simp only [causesOf, BitVec.getLsbD_ofNat, CauseSet.mk.injEq, causeBits]
  refine ⟨?_, ?_, ?_, ?_, ?_, ?_⟩ <;> simp only [Nat.reduceLT, decide_true, Bool.true_and, testBit_eq_iff] <;> omega

/-! ## Reads -/

/-- The number that STATUS holds. -/
def statusNumber (s : State) : Nat :=
  runStateValue s.port.runState + 16 * faultReasonValue s.port.faultReason + causeBits s.port.causes +
    65536 * s.bus.lineNoise.toNat

theorem readRegister_status (s : State) : readRegister s 0x0C 4 = BitVec.ofNat 32 (statusNumber s) := rfl

theorem readRegister_enables (s : State) : readRegister s 0x10 4 = BitVec.ofNat 32 (causeBits s.port.enables) := rfl

theorem statusNumber_lt (s : State) : statusNumber s < 2 ^ 17 := by
  have := runStateValue_lt s.port.runState
  have := faultReasonValue_lt s.port.faultReason
  have := causeBits_lt s.port.causes
  have := Bool.toNat_le s.bus.lineNoise
  unfold statusNumber
  omega

theorem readRegister_status_toNat (s : State) : (readRegister s 0x0C 4).toNat = statusNumber s := by
  rw [readRegister_status, BitVec.toNat_ofNat, Nat.mod_eq_of_lt (by have := statusNumber_lt s; omega)]

/-- STATUS has a bit 16 for the noise flag, and none at 3, 14, 15 or from 17 on. -/
theorem readRegister_status_bits (s : State) : (readRegister s 0x0C 4).getLsbD 16 = s.bus.lineNoise ∧
    ∀ k, k = 3 ∨ k = 14 ∨ k = 15 ∨ 17 ≤ k → (readRegister s 0x0C 4).getLsbD k = false := by
  have run := runStateValue_lt s.port.runState
  have reason := faultReasonValue_lt s.port.faultReason
  have noise := Bool.toNat_le s.bus.lineNoise
  obtain ⟨causes, e⟩ : ∃ n, causeBits s.port.causes = 256 * n := ⟨_, rfl⟩
  have causes_lt := causeBits_lt s.port.causes
  rw [readRegister_status]
  simp only [BitVec.getLsbD_ofNat]
  refine ⟨?_, ?_⟩
  · simp only [Nat.reduceLT, decide_true, Bool.true_and, testBit_eq_iff, statusNumber]
    omega
  · rintro k (rfl | rfl | rfl | high)
    · simp only [Nat.reduceLT, decide_true, Bool.true_and, testBit_eq_iff, statusNumber, Bool.toNat_false]
      omega
    · simp only [Nat.reduceLT, decide_true, Bool.true_and, testBit_eq_iff, statusNumber, Bool.toNat_false]
      omega
    · simp only [Nat.reduceLT, decide_true, Bool.true_and, testBit_eq_iff, statusNumber, Bool.toNat_false]
      omega
    · rw [Nat.testBit_lt_two_pow (lt_of_lt_of_le (statusNumber_lt s) (Nat.pow_le_pow_right (by decide) high)),
        Bool.and_false]

/-- The enables have no bit outside 13..8. -/
theorem readRegister_enables_bits (s : State) (k : Nat) (outside : k < 8 ∨ 14 ≤ k) :
    (readRegister s 0x10 4).getLsbD k = false := by
  rw [readRegister_enables, BitVec.getLsbD_ofNat]
  rcases outside with low | high
  · rw [Bool.and_eq_false_iff, testBit_eq_iff]
    refine .inr ?_
    obtain ⟨n, e⟩ : ∃ n, causeBits s.port.enables = 2 ^ k * (2 * n) := by
      obtain ⟨j, hj⟩ := Nat.exists_eq_add_of_lt low
      refine ⟨2 ^ j * (causeBits s.port.enables / 256), ?_⟩
      have : causeBits s.port.enables = 256 * (causeBits s.port.enables / 256) := by
        unfold causeBits
        omega
      calc causeBits s.port.enables = 2 ^ 8 * (causeBits s.port.enables / 256) := this
        _ = 2 ^ (k + j + 1) * (causeBits s.port.enables / 256) := by rw [hj]
        _ = _ := by ring
    rw [e, Nat.mul_div_cancel_left _ (Nat.two_pow_pos k), Nat.mul_mod_right]
    rfl
  · rw [Nat.testBit_lt_two_pow (lt_of_lt_of_le (causeBits_lt _) (Nat.pow_le_pow_right (by decide) high)),
      Bool.and_false]

/-- The halves of the anchor address, put together. -/
theorem anchor_halves (a : Word64) :
    ((a >>> 32).setWidth 32).toNat * 2 ^ 32 + (a.setWidth 32).toNat = a.toNat := by
  have := a.isLt
  simp only [BitVec.toNat_setWidth, BitVec.toNat_ushiftRight, Nat.shiftRight_eq_div_pow]
  omega

/-- The anchor address as its two halves put together. -/
theorem halves_toNat (high low : Word32) : (high ++ low : Word64).toNat = high.toNat * 2 ^ 32 + low.toNat := by
  rw [show (high ++ low : Word64).toNat = high.toNat <<< 32 ||| low.toNat from BitVec.toNat_append high low,
    ← Nat.shiftLeft_add_eq_or_of_lt low.isLt, Nat.shiftLeft_eq]

theorem halves_low (high low : Word32) : (high ++ low : Word64).setWidth 32 = low := by
  apply BitVec.eq_of_toNat_eq
  rw [BitVec.toNat_setWidth, halves_toNat]
  have := low.isLt
  omega

theorem halves_high (high low : Word32) : ((high ++ low : Word64) >>> 32).setWidth 32 = high := by
  apply BitVec.eq_of_toNat_eq
  rw [BitVec.toNat_setWidth, BitVec.toNat_ushiftRight, halves_toNat, Nat.shiftRight_eq_div_pow]
  have := low.isLt
  have := high.isLt
  omega

/-- No register stands where no register access goes. -/
theorem readRegister_outside {s : State} {offset width : Nat} (h : isRegisterAccess offset width = false) :
    readRegister s offset width = 0 := by
  unfold readRegister
  by_cases wide : width = 4
  · subst wide
    have away : ∀ k, k % 4 = 0 → k ≤ 0x14 → offset ≠ k := by
      rintro k aligned inside rfl
      simp [isRegisterAccess, aligned, inside] at h
    rw [if_neg (by simp), if_neg (away _ rfl (by decide)), if_neg (away _ rfl (by decide)),
      if_neg (away _ rfl (by decide)), if_neg (away _ rfl (by decide))]
  · rw [if_pos wide]

/-! ## Writes -/

/-- An access to no register, or a CONTROL value that names no command, changes nothing (R203). -/
theorem writeRegister_nothing {s : State} {offset width : Nat} {value : Word64}
    (h : writesNothing offset width value = true) : writeRegister offset width (value.setWidth 32) s = s := by
  unfold writeRegister
  by_cases wide : width = 4
  · subst wide
    rw [if_neg (by simp)]
    unfold writesNothing at h
    by_cases control : offset = 0x08
    · subst control
      simp only [show isRegisterAccess 0x08 4 = true from rfl, Bool.not_true, decide_true, Bool.false_or,
        Bool.true_and, Bool.and_eq_true, decide_eq_true_eq, Bool.not_eq_true'] at h
      obtain ⟨none, noReset⟩ := h
      have bit : (value.setWidth 32).getLsbD 3 = false := by simpa using noReset
      simp only [namedCommands] at none
      have b0 : (value.setWidth 32).getLsbD 0 = false := by
        rw [← Bool.toNat_eq_zero]
        omega
      have b1 : (value.setWidth 32).getLsbD 1 = false := by
        rw [← Bool.toNat_eq_zero]
        omega
      have b2 : (value.setWidth 32).getLsbD 2 = false := by
        rw [← Bool.toNat_eq_zero]
        omega
      have few : namesSeveral (value.setWidth 32) = false := by
        unfold namesSeveral namedCommands
        rw [b0, b1, b2]
        rfl
      rw [if_neg (by decide), if_neg (by decide), if_pos rfl]
      unfold writeControl
      rw [if_neg (ne_true_of_eq_false bit), if_neg (ne_true_of_eq_false few), if_neg (ne_true_of_eq_false b0),
        if_neg (ne_true_of_eq_false b1), if_neg (ne_true_of_eq_false b2)]
    · have away : ∀ k, k % 4 = 0 → k ≤ 0x14 → offset ≠ k := by
        rintro k aligned inside rfl
        simp [isRegisterAccess, aligned, inside, control] at h
      rw [if_neg (away _ rfl (by decide)), if_neg (away _ rfl (by decide)), if_neg control,
        if_neg (away _ rfl (by decide)), if_neg (away _ rfl (by decide)), if_neg (away _ rfl (by decide))]
  · rw [if_pos wide]

/-- A CONTROL value naming several commands, RESET not among them, is refused (R171). -/
theorem writeControl_several {s : State} {value : Word32} (h : namesSeveral value = true) :
    writeControl value s = refusedState s := by
  have noReset : value.getLsbD 3 = false := by
    simp only [namesSeveral, Bool.and_eq_true, Bool.not_eq_true'] at h
    exact h.2
  unfold writeControl
  rw [if_neg (ne_true_of_eq_false noReset), if_pos h]
  exact refuse_eq s

theorem haltedOrStopped_iff (s : State) :
    (s.port.runState = .halted || s.port.runState = .stopped) = true ↔
      s.port.runState = .halted ∨ s.port.runState = .stopped := by
  rw [Bool.or_eq_true, decide_eq_true_eq, decide_eq_true_eq]

/-- What is taken out of a set of flags leaves the pending ones that stay. -/
theorem pendingCauses_minus (p : Port) (c : CauseSet) :
    causesAnd (causesMinus p.causes c) p.enables = causesMinus (pendingCauses p) c := by
  simp only [causesAnd, causesMinus, pendingCauses, Bool.and_right_comm]

theorem writeStatus_eq (value : Word32) (s : State) :
    writeStatus value s =
      { s with
        port := { s.port with
          causes := causesMinus s.port.causes (causesOf value)
          controlRequests := s.port.controlRequests ++
            messageIf (causesAny (causesAnd (pendingCauses s.port) (causesOf value)) &&
              causesAny (causesMinus (pendingCauses s.port) (causesOf value))) s.port }
        bus := { s.bus with lineNoise := s.bus.lineNoise && !value.getLsbD 16 } } := by
  unfold writeStatus
  dsimp only
  rw [← pendingCauses_minus]
  split
  · next owed =>
    cases enabled : s.port.messageEnable <;>
      simp_all [modBus, modPort, messageIf, presentInterrupt, presentControl, interruptRequest, causesPending,
        pendingCauses]
  · next owed =>
    simp_all [modBus, modPort, messageIf, causesPending, pendingCauses]

theorem writeEnables_eq (value : Word32) (s : State) :
    writeEnables value s =
      { s with port := { s.port with
          enables := causesOf value
          controlRequests := s.port.controlRequests ++
            messageIf (!causesPending s.port && causesAny (causesAnd s.port.causes (causesOf value))) s.port } } := by
  unfold writeEnables
  dsimp only
  split
  · next owed =>
    cases enabled : s.port.messageEnable <;>
      simp_all [modPort, messageIf, presentInterrupt, presentControl, interruptRequest, causesPending, pendingCauses]
  · next owed =>
    simp_all [modPort, messageIf, causesPending, pendingCauses]

/-! ## The statements -/

/-- Settles O7. -/
theorem resetsLeaveResetValues : Obligations.ResetsLeaveResetValues := by
  intro s soft cold
  have quiet : ∀ (t : State), t.port.anchorRegister = 0 → statusNumber t = 0 → t.port.enables = .clear →
      ∀ offset width, readRegister t offset width = 0 := by
    intro t anchor status enables offset width
    unfold readRegister
    rw [anchor, enables, show statusWord t = BitVec.ofNat 32 (statusNumber t) from rfl, status]
    split_ifs <;> rfl
  exact ⟨rfl, rfl, rfl, fun offset width => ⟨quiet soft rfl rfl rfl offset width, quiet cold rfl rfl rfl offset width⟩,
    fun _ => rfl⟩

/-- Settles O8: each command's test of the run state fails. -/
theorem refusalsSetOnlyTheCause : Obligations.RefusalsSetOnlyTheCause := by
  refine fun s => ⟨fun halted stopped => ?start, fun running => ?stop, fun starting running draining => ?abort,
    fun value several => ?several⟩
  case start =>
    have away := mt (haltedOrStopped_iff s).1 (not_or.2 ⟨halted, stopped⟩)
    refine ⟨.of_settle rfl ?_, fun high value => ?_⟩
    · unfold writeStart
      rw [if_neg away, refuse_eq]
    · show Host.Outcome.next (writeAnchor high value s) = _
      unfold writeAnchor
      rw [if_neg away, refuse_eq]
  case stop =>
    refine .of_settle rfl ?_
    unfold writeStop
    rw [if_neg running, refuse_eq]
  case abort =>
    refine .of_settle rfl ?_
    unfold writeAbort
    rw [if_neg starting, if_neg (by simp [running, draining]), refuse_eq]
  case several => exact congrArg Host.Outcome.next (writeControl_several several)

/-- Settles O9. -/
theorem anchorWriteReplacesOneHalf : Obligations.AnchorWriteReplacesOneHalf := by
  refine ⟨fun s high value taken => ?half, fun s offset width value none => ?other⟩
  case half =>
    have written : exec (.anchorRegisterWrite high value) s = _ :=
      congrArg Host.Outcome.next (if_pos ((haltedOrStopped_iff s).2 taken))
    cases high with
    | true => exact ⟨_, written, halves_high _ _, halves_low _ _⟩
    | false => exact ⟨_, written, halves_low _ _, halves_high _ _⟩
  case other => exact congrArg Host.Outcome.next (writeRegister_nothing none)

/-- Settles O10: STATUS is a number of digits, each field at its own place. -/
theorem registersReadTheirFields : Obligations.RegistersReadTheirFields := by
  refine ⟨fun s => ?_, ⟨rfl, rfl, rfl, rfl, rfl, rfl, rfl⟩, ⟨rfl, rfl, rfl, rfl, rfl, rfl, rfl, rfl, rfl⟩⟩
  have run := runStateValue_lt s.port.runState
  have reason := faultReasonValue_lt s.port.faultReason
  have causes : ∃ n, causeBits s.port.causes = 256 * n := ⟨_, rfl⟩
  have status := readRegister_status_toNat s
  obtain ⟨noise, rest⟩ := readRegister_status_bits s
  refine ⟨anchor_halves _, ?_, ?_, ?_, noise, rest, ?_, readRegister_enables_bits s, rfl, rfl,
    fun _ _ => readRegister_outside⟩
  · rw [status, statusNumber]
    omega
  · rw [status, statusNumber]
    omega
  · rw [readRegister_status, statusNumber]
    have := causesOf_ofNat (c := s.port.causes)
      (low := runStateValue s.port.runState + 16 * faultReasonValue s.port.faultReason)
      (high := 4 * s.bus.lineNoise.toNat) (by omega)
    rwa [← Nat.mul_assoc] at this
  · have := causesOf_ofNat (c := s.port.enables) (low := 0) (high := 0) (by decide)
    rwa [Nat.zero_add, Nat.mul_zero, Nat.add_zero] at this

/-- Settles O11. -/
theorem statusWriteClearsFlags : Obligations.StatusWriteClearsFlags :=
  fun s value => congrArg Host.Outcome.next (writeStatus_eq value s)

/-- Settles O12. -/
theorem interruptFollowsTheCauses : Obligations.InterruptFollowsTheCauses :=
  ⟨fun s value => congrArg Host.Outcome.next (writeEnables_eq value s), fun s cause => setCause_eq cause s⟩

end Sys2Proof.Machine
end

section
/-! PROOFS. Run control and the walk: NUDGE, START, FAULTED, the anchor, STOP and ABORT (R126, R171, R178 to R187). -/

namespace Sys2Proof.Machine

/-! ## The walk and the dry wait look again -/

theorem settings_getD {s : State} {w : Settings} (h : s.port.settings = some w) (f : Settings → Nat) :
    (s.port.settings.map f).getD 0 = f w := by
  rw [h]
  rfl

theorem nudgeWalk_eq (s : State) : nudgeWalk s =
    { s with walker := if s.walker.phase = .waiting then { s.walker with phase := .examining, recheckTimer := none }
        else s.walker } := by
  unfold nudgeWalk
  split <;> rfl

theorem examineDry_of_not_dryWait {s : State} (h : ∀ planes, s.writer.task ≠ .dryWait planes) : examineDry s = s := by
  unfold examineDry
  split
  · next task _ => exact absurd task (h _)
  · rfl

/-- The pool an examination of the dry wait scans first: the reserved one where it may be scanned (R106, R108). -/
def dryPool (p : OutputParams) (fallback : Bool) : Option ReservedPool :=
  p.reserved.filter fun r => !r.dry && !fallback

/-- A dry wait with capacity left scans that pool, else the common one, from its take index (R104, R109). -/
theorem examineDry_eq {s : State} {plane : Plane} {rest : List Plane} {p : OutputParams} {w : Settings}
    {fallback : Bool}
    (task : s.writer.task = .dryWait (plane :: rest)) (params : s.writer.params = some p)
    (room : s.writer.nextList < p.capacity) (settings : s.port.settings = some w)
    (fell : (planeRecord s.writer plane).fallback = fallback) :
    let reserved := dryPool p fallback
    examineDry s =
      { s with
        nextOp := s.nextOp + 1
        writer := { s.writer with task := .scanning (plane :: rest) ⟨s.nextOp, reserved.isSome,
          (reserved.map ReservedPool.take).getD s.writer.commonTake,
          (reserved.map ReservedPool.count).getD w.poolCount - 1⟩ }
        port := { s.port with writerRequests := s.port.writerRequests ++
          [⟨.read 16, (reserved.map ReservedPool.base).getD w.poolBase +
            16 * (reserved.map ReservedPool.take).getD s.writer.commonTake, .poolEntry s.nextOp, false⟩] } } := by
  unfold examineDry
  rw [task, params]
  dsimp only
  unfold beginTake
  rw [if_neg (Nat.not_le.2 room)]
  have scans : scansReserved s plane = (dryPool p fallback).isSome := by
    unfold scansReserved dryPool
    rw [params, Option.bind_some, fell]
    cases p.reserved with
    | none => rfl
    | some r => cases h : (!r.dry && !fallback) <;> simp [h]
  have pool : poolOf s (dryPool p fallback).isSome =
      (((dryPool p fallback).map ReservedPool.base).getD w.poolBase,
        ((dryPool p fallback).map ReservedPool.count).getD w.poolCount,
        ((dryPool p fallback).map ReservedPool.take).getD s.writer.commonTake) := by
    unfold poolOf
    rw [params, Option.bind_some, settings]
    cases h : dryPool p fallback with
    | none => rfl
    | some r =>
      rw [(Option.filter_eq_some_iff.1 h).1]
      rfl
  unfold beginScan
  rw [scans, pool]
  rfl

/-! ## What reports of cleared telegrams leave -/

/-- Run control's state, the walk's phase and the line are the same in `t` as in `s`. -/
structure ReportsLeave (s t : State) : Prop where
  runState : t.port.runState = s.port.runState
  faultReason : t.port.faultReason = s.port.faultReason
  causes : t.port.causes = s.port.causes
  settings : t.port.settings = s.port.settings
  phase : t.walker.phase = s.walker.phase
  line : t.bus.line = s.bus.line
  attempt : t.bus.attempt = s.bus.attempt
  corruptRun : t.bus.corruptRun = s.bus.corruptRun
  rate : t.bus.rate = s.bus.rate
  queue : t.bus.queue = s.bus.queue
  pendingClear : t.bus.pendingClear = s.bus.pendingClear

theorem ReportsLeave.refl (s : State) : ReportsLeave s s := ⟨rfl, rfl, rfl, rfl, rfl, rfl, rfl, rfl, rfl, rfl, rfl⟩

theorem ReportsLeave.trans {r s t : State} (h : ReportsLeave r s) (g : ReportsLeave s t) : ReportsLeave r t :=
  ⟨g.runState.trans h.runState, g.faultReason.trans h.faultReason, g.causes.trans h.causes,
    g.settings.trans h.settings, g.phase.trans h.phase, g.line.trans h.line, g.attempt.trans h.attempt,
    g.corruptRun.trans h.corruptRun, g.rate.trans h.rate, g.queue.trans h.queue, g.pendingClear.trans h.pendingClear⟩

/-- A failure of the ACTIVE order, if it may be one, reaches the order and the blocks that work for it (R141). -/
theorem failActive_parts (code : ResultCode) (s : State) :
    ∃ active plate intake cache merge writer walkerRequests writerRequests, failActive code s =
      { s with
        walker := { s.walker with active := active }
        plate := plate, intake := intake, cache := cache, merge := merge, writer := writer
        port := { s.port with walkerRequests := walkerRequests, writerRequests := writerRequests } } := by
  cases active : s.walker.active with
  | none =>
    rw [show failActive code s = s by simp [failActive, active]]
    exact ⟨_, _, _, _, _, _, _, _, rfl⟩
  | some a =>
    cases ending : a.ending with
    | true =>
      rw [show failActive code s = s by simp [failActive, active, ending]]
      exact ⟨_, _, _, _, _, _, _, _, rfl⟩
    | false =>
      by_cases shut : s.plate.phase = .shutdown
      · obtain ⟨_, _, _, _, _, _, e⟩ := failActive_further (code := code) active ending shut
        rw [e]
        exact ⟨_, _, _, _, _, _, _, _, rfl⟩
      · obtain ⟨_, _, _, _, _, _, _, e, -⟩ := failActive_eq (code := code) active ending shut
        rw [e]
        exact ⟨_, _, _, _, _, _, _, _, rfl⟩

theorem failActive_leaves (code : ResultCode) (s : State) : ReportsLeave s (failActive code s) := by
  obtain ⟨_, _, _, _, _, _, _, _, e⟩ := failActive_parts code s
  rw [e]
  exact ⟨rfl, rfl, rfl, rfl, rfl, rfl, rfl, rfl, rfl, rfl, rfl⟩

theorem endTaken_leaves (code : ResultCode) (state : Nat) (s : State) : ReportsLeave s (endTaken code state s) := by
  cases taken : s.walker.taken with
  | none =>
    rw [show endTaken code state s = s by simp [endTaken, taken]]
    exact .refl s
  | some o =>
    cases ending : o.ending with
    | true =>
      rw [show endTaken code state s = s by simp [endTaken, taken, ending]]
      exact .refl s
    | false =>
      rw [endTaken_eq taken ending]
      exact ⟨rfl, rfl, rfl, rfl, rfl, rfl, rfl, rfl, rfl, rfl, rfl⟩

theorem failHeld_leaves (code : ResultCode) (s : State) : ReportsLeave s (failHeld code s) :=
  (endTaken_leaves code stateFailed s).trans (failActive_leaves code _)

theorem modPlate_leaves (f : Plate → Plate) (s : State) : ReportsLeave s (modPlate f s) :=
  ⟨rfl, rfl, rfl, rfl, rfl, rfl, rfl, rfl, rfl, rfl, rfl⟩

theorem standAfterStep_leaves (step : PlateStep) (outcome : BusOutcome) (code : Nat) (reply : List Byte) (s : State) :
    ReportsLeave s (standAfterStep step outcome code reply s) := by
  obtain ⟨_, _, _, _, _, _, e⟩ := standAfterStep_eq step outcome code reply s
  rw [e]
  exact ⟨rfl, rfl, rfl, rfl, rfl, rfl, rfl, rfl, rfl, rfl, rfl⟩

theorem handSlot_leaves (n outcome code : Nat) (reply : List Byte) (s : State) :
    ReportsLeave s (handSlot n outcome code reply s) := by
  unfold handSlot
  split
  · exact .refl s
  · exact ⟨rfl, rfl, rfl, rfl, rfl, rfl, rfl, rfl, rfl, rfl, rfl⟩

theorem nextMember_leaves (s : State) : ReportsLeave s (nextMember s) := by
  unfold nextMember
  split
  · split
    · split
      · exact ⟨rfl, rfl, rfl, rfl, rfl, rfl, rfl, rfl, rfl, rfl, rfl⟩
      · exact .refl s
    · exact modPlate_leaves _ s
  · exact .refl s

theorem stepPassed_leaves (step : PlateStep) (code : Nat) (s : State) : ReportsLeave s (stepPassed step code s) := by
  unfold stepPassed
  split
  · unfold gaugePassed
    split <;> exact modPlate_leaves _ s
  · split
    · exact modPlate_leaves _ s
    · unfold moveEnded
      dsimp only
      split
      · exact (modPlate_leaves _ s).trans (modPlate_leaves _ _)
      · exact (modPlate_leaves _ s).trans (nextMember_leaves _)
  · exact .refl s

/-- What an outcome does in the Plate Controller reaches the ACTIVE order and its blocks, not run control (R3). -/
theorem plateResult_leaves (outcome : BusOutcome) (code : Nat) (reply : List Byte) (s : State) :
    ReportsLeave s (plateResult outcome code reply s) := by
  unfold plateResult
  split
  · exact .refl s
  · next step _ =>
    have stood : ReportsLeave s (modPlate (fun p => { p with awaiting := none })
        (standAfterStep step outcome code reply s)) :=
      (standAfterStep_leaves step outcome code reply s).trans (modPlate_leaves _ _)
    dsimp only
    split
    · exact stood.trans (handSlot_leaves _ _ _ _ _)
    · split
      · have failed := (stood.trans (modPlate_leaves (keepThickness step outcome code reply) _)).trans
          (failActive_leaves ‹_› _)
        split
        · exact failed.trans (modPlate_leaves _ _)
        · exact failed
      · split
        · exact stood.trans (modPlate_leaves _ _)
        · exact (stood.trans (modPlate_leaves _ _)).trans (stepPassed_leaves _ _ _)

theorem busPartDone_leaves (s : State) : ReportsLeave s (busPartDone s) :=
  ⟨rfl, rfl, rfl, rfl, rfl, rfl, rfl, rfl, rfl, rfl, rfl⟩

theorem handRate_leaves (s : State) : ReportsLeave s (handRate s) := by
  unfold handRate
  split
  · exact .refl s
  · dsimp only
    split <;> exact ⟨rfl, rfl, rfl, rfl, rfl, rfl, rfl, rfl, rfl, rfl, rfl⟩

theorem pingResult_leaves (address : Nat) (outcome : BusOutcome) (code : Nat) (reply : List Byte) (s : State) :
    ReportsLeave s (pingResult address outcome code reply s) := by
  unfold pingResult
  split
  · dsimp only
    split
    · unfold rollCallDone
      dsimp only
      split <;> exact ⟨rfl, rfl, rfl, rfl, rfl, rfl, rfl, rfl, rfl, rfl, rfl⟩
    · exact ⟨rfl, rfl, rfl, rfl, rfl, rfl, rfl, rfl, rfl, rfl, rfl⟩
  · exact .refl s

theorem rateFailed_leaves (s : State) : ReportsLeave s (rateFailed s) := by
  have degraded : ReportsLeave s (degrade s) := ⟨rfl, rfl, rfl, rfl, rfl, rfl, rfl, rfl, rfl, rfl, rfl⟩
  unfold rateFailed endRateStep
  split
  · exact degraded.trans (busPartDone_leaves _)
  · exact degraded.trans (handRate_leaves _)

theorem reportCleared_leaves (requests : List BusRequest) (s : State) :
    ReportsLeave s (reportCleared requests s) := by
  unfold reportCleared
  induction requests generalizing s with
  | nil => exact .refl s
  | cons r rest ih =>
    refine .trans (?_ : ReportsLeave s (reportResult r .cleared r.replyCode r.replyData s)) (ih _)
    unfold reportResult
    split
    · exact plateResult_leaves _ _ _ _
    · exact pingResult_leaves _ _ _ _ _
    · unfold rateResult
      dsimp only
      split
      · exact rateFailed_leaves s
      · exact .refl s

/-- A clear pulse asked for with none under way: the line taken and everything on it ended (R163, R164). -/
theorem beginClear_leaves {s : State} (requester : ClearRequester) (none : s.bus.pendingClear = none) :
    ReportsLeave (takeLine requester s) (beginClear requester s) := by
  unfold beginClear
  rw [none]
  exact (reportCleared_leaves _ _).trans (handRate_leaves _)

/-- Run control's state and the walk's phase are the same in `t` as in `s`. -/
structure ControlLasts (s t : State) : Prop where
  runState : t.port.runState = s.port.runState
  faultReason : t.port.faultReason = s.port.faultReason
  causes : t.port.causes = s.port.causes
  settings : t.port.settings = s.port.settings
  phase : t.walker.phase = s.walker.phase

theorem ReportsLeave.control {s t : State} (h : ReportsLeave s t) : ControlLasts s t :=
  ⟨h.runState, h.faultReason, h.causes, h.settings, h.phase⟩

theorem ControlLasts.trans {r s t : State} (h : ControlLasts r s) (g : ControlLasts s t) : ControlLasts r t :=
  ⟨g.runState.trans h.runState, g.faultReason.trans h.faultReason, g.causes.trans h.causes,
    g.settings.trans h.settings, g.phase.trans h.phase⟩

/-- A pulse asked for, joined or begun, names its requester; run control's state lasts (R163). -/
theorem beginClear_control (requester : ClearRequester) (s : State) :
    ControlLasts s (beginClear requester s) ∧ requester ∈ (beginClear requester s).bus.pendingClear.getD [] := by
  cases pending : s.bus.pendingClear with
  | none =>
    have left := beginClear_leaves requester pending
    have line : ControlLasts s (takeLine requester s) := ⟨rfl, rfl, rfl, rfl, rfl⟩
    exact ⟨line.trans left.control, by simp [left.pendingClear, takeLine, putOnLine, modBus]⟩
  | some requesters =>
    have joined : beginClear requester s =
        modBus (fun b => { b with pendingClear := some (requesters ++ [requester]) }) s := by
      unfold beginClear
      rw [pending]
    rw [joined]
    exact ⟨⟨rfl, rfl, rfl, rfl, rfl⟩, by simp⟩

theorem clearAbandoned_control (s : State) :
    ControlLasts s (clearAbandoned s) ∧ .runControl ∈ (clearAbandoned s).bus.pendingClear.getD [] := by
  obtain ⟨lasts, asked⟩ := beginClear_control .runControl s
  have reported := reportCleared_leaves ((beginClear .runControl s).bus.queue.filter isPing)
    (modBus (fun b => { b with queue := b.queue.filter fun r => !isPing r }) (beginClear .runControl s))
  have kept : ControlLasts (beginClear .runControl s)
      (modBus (fun b => { b with queue := b.queue.filter fun r => !isPing r }) (beginClear .runControl s)) :=
    ⟨rfl, rfl, rfl, rfl, rfl⟩
  refine ⟨lasts.trans (kept.trans reported.control), ?_⟩
  show ClearRequester.runControl ∈ (reportCleared _ _).bus.pendingClear.getD []
  rw [reported.pendingClear]
  exact asked

/-- FAULTED as it is entered: reason and cause, the walk OFF, the pulse asked for (R187). -/
theorem enterFaulted_eq {s : State} (reason : FaultReason) (halted : s.port.runState ≠ .halted)
    (faulted : s.port.runState ≠ .faulted) :
    let t := enterFaulted reason s
    t.port.runState = .faulted ∧ t.port.faultReason = reason ∧ t.port.causes.fault = true ∧
      t.port.settings = s.port.settings ∧ t.walker.phase = .off ∧ .runControl ∈ t.bus.pendingClear.getD [] := by
  unfold enterFaulted
  rw [if_neg (by simp [halted, faulted])]
  dsimp only
  rw [setCause_eq]
  generalize e : walkOff _ = off
  obtain ⟨lasts, asked⟩ := clearAbandoned_control (abandonStart (failHeld .memoryError off))
  have abandoned : ControlLasts (failHeld .memoryError off) (abandonStart (failHeld .memoryError off)) :=
    ⟨rfl, rfl, rfl, rfl, rfl⟩
  have same := ((failHeld_leaves .memoryError off).control.trans abandoned).trans lasts
  refine ⟨?_, ?_, ?_, ?_, ?_, asked⟩
  · rw [same.runState, ← e]
    rfl
  · rw [same.faultReason, ← e]
    rfl
  · rw [same.causes, ← e]
    rfl
  · rw [same.settings, ← e]
    rfl
  · rw [same.phase, ← e]
    rfl

/-- Settles O13. -/
theorem nudgeLooksAgain : Obligations.NudgeLooksAgain := by
  refine ⟨?walk, fun s plane rest p w task params room settings => ?dry⟩
  case walk =>
    intro s value looked none
    have quiet : nudgePart s = nudgeWalk s := by
      unfold nudgePart
      rw [examineDry_of_not_dryWait (by rw [nudgeWalk_eq]; exact none)]
    refine ⟨fun waiting => .of_settle rfl ?_, fun waiting => .of_settle rfl ?_⟩
    · rw [quiet, nudgeWalk_eq, if_pos waiting]
    · rw [quiet, nudgeWalk_eq, if_neg waiting]
  case dry =>
    refine ⟨fun value => .of_settle rfl ?_, fun left running => .of_settle rfl ?_⟩
    · unfold nudgePart
      rw [nudgeWalk_eq]
      exact examineDry_eq (s := { s with walker := _ }) task params room settings rfl
    · unfold dryRecheck
      rw [running]
      dsimp only
      rw [settings_getD settings]
      exact examineDry_eq (fallback := (planeRecord s.writer plane).fallback) 
        (s := modWriter (fun t => { t with recheckTimer := some w.recheck }) s) task params room settings
        (by cases plane <;> rfl)

/-- Settles O14. -/
theorem startReadsTheAnchor : Obligations.StartReadsTheAnchor := by
  intro s stopped given aligned fresh reads
  refine .of_settle rfl ?_
  have good : anchorAddressBad s.port.anchorRegister = false := by simpa [anchorAddressBad, aligned] using given
  unfold writeStart
  rw [if_pos ((haltedOrStopped_iff s).2 stopped)]
  unfold beginStart readAnchor
  simp only [modPort_port, good]
  rfl

end Sys2Proof.Machine
end

section
/-! PROOFS. FAULTED, the anchor's tests, the rest of STARTING, STOP and ABORT (R177, R178 to R187). -/

namespace Sys2Proof.Machine

/-! ## The arbiter's turn and the reads' ends -/

/-- A granted request is off its requester's list, and the turn is the requester's (R173). -/
def grantedState (s : State) (q : Requester) (r : Request) : State :=
  modPort (fun p => { p with lastGranted := q, groupLock := if r.more then some q else none }) (takeWaiting q s)

theorem grantTurn_of_grant {s : State} {q : Requester} {r : Request} (h : nextGrant s = some (q, r)) :
    grantTurn s = acceptRequest q r (grantedState s q r) := by
  unfold grantTurn
  rw [h]
  rfl

section
variable (s : State) (q : Requester) (r : Request)

@[simp] theorem grantedState_runState : (grantedState s q r).port.runState = s.port.runState := by
  obtain ⟨_, _, _, _, _, _, _, _, e⟩ := takeWaiting_eq q s
  simp only [grantedState, e, modPort_port]

@[simp] theorem grantedState_sent : (grantedState s q r).port.sent = s.port.sent := by
  obtain ⟨_, _, _, _, _, _, _, _, e⟩ := takeWaiting_eq q s
  simp only [grantedState, e, modPort_port]

@[simp] theorem grantedState_reads : (grantedState s q r).port.reads = s.port.reads := by
  obtain ⟨_, _, _, _, _, _, _, _, e⟩ := takeWaiting_eq q s
  simp only [grantedState, e, modPort_port]

@[simp] theorem grantedState_nextRead : (grantedState s q r).port.nextRead = s.port.nextRead := by
  obtain ⟨_, _, _, _, _, _, _, _, e⟩ := takeWaiting_eq q s
  simp only [grantedState, e, modPort_port]

@[simp] theorem grantedState_messageEnable : (grantedState s q r).port.messageEnable = s.port.messageEnable := by
  obtain ⟨_, _, _, _, _, _, _, _, e⟩ := takeWaiting_eq q s
  simp only [grantedState, e, modPort_port]

@[simp] theorem canSend_grantedState : canSend (grantedState s q r) = canSend s := by
  obtain ⟨_, _, _, _, _, _, _, _, e⟩ := takeWaiting_eq q s
  simp only [canSend, grantedState, e, modPort_port]

@[simp] theorem inWindow_grantedState (address length : Nat) :
    inWindow (grantedState s q r) address length = inWindow s address length := by
  obtain ⟨_, _, _, _, _, _, _, _, e⟩ := takeWaiting_eq q s
  simp only [inWindow, grantedState, e, modPort_port]

end

theorem findRead_number {n : Nat} {p : Port} {r : ReadInProgress} (h : findRead n p = some r) : r.number = n := by
  have := List.find?_some h
  simpa using this

/-- A read of the length asked for reaches its requester (R175). -/
theorem completeRead_eq {s : State} {n : Nat} {data : List Byte} {r : ReadInProgress}
    (found : findRead n s.port = some r) (sent : r.sent = true) (length : data.length = r.length) :
    completeRead n data s = readDone r.address r.purpose data (removeRead n s) := by
  unfold completeRead
  rw [found]
  simp only [sent, length, Bool.not_true, Bool.false_eq_true, if_false, if_true]

theorem errorRead_eq {s : State} {n : Nat} {r : ReadInProgress} (found : findRead n s.port = some r)
    (sent : r.sent = true) : errorRead n s = readFailed r.purpose (removeRead n s) := by
  unfold errorRead failRead
  rw [found]
  simp only [sent, if_true, findRead_number found]

theorem timeoutRead_eq {s : State} {n : Nat} {r : ReadInProgress} (found : findRead n s.port = some r) :
    timeoutRead n s = readFailed r.purpose (removeRead n s) := by
  unfold timeoutRead failRead
  rw [found]
  simp only [findRead_number found]

/-! ## FAULTED -/

theorem releaseHolds_eq (holds : List CacheHold) (s : State) :
    ∃ entries, releaseHolds holds s = { s with cache := { s.cache with entries := entries } } := by
  unfold releaseHolds
  induction holds generalizing s with
  | nil => exact ⟨_, rfl⟩
  | cons h rest ih =>
    obtain ⟨entries, e⟩ := ih (releaseHold h.entry s)
    exact ⟨entries, by rw [List.foldl_cons, e]; rfl⟩

/-- A cancelled trigger changes the list of triggers, a slot and the back channel alone (R63). -/
theorem cancelSlot_parts (n : Nat) (s : State) : ∃ slots triggers sent,
    cancelSlot n s =
      { s with intake := { s.intake with slots := slots, triggers := triggers, sent := sent } } := by
  unfold cancelSlot
  split
  · unfold cancelTag
    split
    · exact ⟨_, _, _, rfl⟩
    · exact ⟨_, _, _, rfl⟩
  · exact ⟨_, _, _, rfl⟩

/-- The sweep of an order's slots (R77). -/
theorem sweepSlots_parts (order : Nat) (s : State) : ∃ slots triggers sent,
    sweepSlots order s =
      { s with intake := { s.intake with slots := slots, triggers := triggers, sent := sent } } := by
  unfold sweepSlots
  generalize List.range s.intake.slots.length = places
  induction places generalizing s with
  | nil => exact ⟨_, _, _, rfl⟩
  | cons n rest ih =>
    rw [List.foldl_cons]
    split
    · obtain ⟨slots, triggers, sent, e⟩ := ih (modSlot n (fun _ => .reset) (cancelSlot n s))
      obtain ⟨_, _, _, c⟩ := cancelSlot_parts n s
      exact ⟨slots, triggers, sent, by rw [e, c]; rfl⟩
    · exact ih s

/-- What an order's final state releases: entries' holds, banks and slots (R144). -/
theorem releaseOrder_eq (number : Nat) (holds : List CacheHold) (s : State) :
    ∃ entries slots triggers sent bank0 bank1 toneReads, releaseOrder number holds s =
      { s with
        cache := { s.cache with entries := entries }
        intake := { s.intake with slots := slots, triggers := triggers, sent := sent }
        walker := { s.walker with bank0 := bank0, bank1 := bank1, toneReads := toneReads } } := by
  obtain ⟨entries, released⟩ := releaseHolds_eq holds s
  obtain ⟨slots, triggers, sent, swept⟩ := sweepSlots_parts number (freeBanks number (releaseHolds holds s))
  exact ⟨entries, slots, triggers, sent, _, _, _, by rw [releaseOrder, swept, released]; rfl⟩

/-- The ACTIVE order's record is discarded with what it held (R144, R57, R2). -/
theorem dropActive_eq {s : State} {a : ActiveOrder} (active : s.walker.active = some a) :
    ∃ entries slots triggers sent bank0 bank1 toneReads, dropActive s =
      { s with
        cache := { s.cache with entries := entries }
        intake := { s.intake with slots := slots, triggers := triggers, sent := sent }
        walker := { s.walker with bank0 := bank0, bank1 := bank1, toneReads := toneReads, active := none }
        merge := { s.merge with params := none }
        plate := freshContext none s.plate } := by
  obtain ⟨entries, slots, triggers, sent, bank0, bank1, toneReads, e⟩ := releaseOrder_eq a.number a.holds s
  refine ⟨entries, slots, triggers, sent, bank0, bank1, toneReads, ?_⟩
  unfold dropActive
  rw [active]
  dsimp only
  rw [e]
  rfl

theorem dropTaken_control (s : State) : ControlLasts s (dropTaken s) := by
  unfold dropTaken
  split
  · exact ⟨rfl, rfl, rfl, rfl, rfl⟩
  · next o _ =>
    obtain ⟨_, _, _, _, _, _, _, e⟩ := releaseOrder_eq o.number o.holds s
    rw [e]
    exact ⟨rfl, rfl, rfl, rfl, rfl⟩

theorem dropActive_control (s : State) : ControlLasts s (dropActive s) := by
  cases active : s.walker.active with
  | none =>
    rw [show dropActive s = s by simp [dropActive, active]]
    exact ⟨rfl, rfl, rfl, rfl, rfl⟩
  | some a =>
    obtain ⟨_, _, _, _, _, _, _, e⟩ := dropActive_eq active
    rw [e]
    exact ⟨rfl, rfl, rfl, rfl, rfl⟩

/-- A requester that drops its failed write leaves run control's state (R177). -/
theorem writeDropped_control (purpose : Purpose) (s : State) : ControlLasts s (writeDropped purpose s) := by
  unfold writeDropped
  split
  · next fromTaken =>
    cases fromTaken with
    | true => exact dropTaken_control s
    | false => exact dropActive_control s
  · exact ⟨rfl, rfl, rfl, rfl, rfl⟩
  · unfold completeTake
    split
    · exact ⟨rfl, rfl, rfl, rfl, rfl⟩
    · exact ⟨rfl, rfl, rfl, rfl, rfl⟩
  · exact ⟨rfl, rfl, rfl, rfl, rfl⟩

theorem anchorAddressBad_of {anchor : Word64} (h : anchor = 0 ∨ anchor.toNat % 64 ≠ 0) :
    anchorAddressBad anchor = true := by
  unfold anchorAddressBad
  rw [Bool.or_eq_true, decide_eq_true_eq, decide_eq_true_eq]
  exact h

/-- Settles O15: by what FAULTED is as it is entered. -/
theorem faultedIsEntered : Obligations.FaultedIsEntered := by
  refine ⟨fun s stopped bad => ⟨_, rfl, ?address⟩,
    fun s n op r found purpose sent examining failures running => ⟨_, rfl, ?chain⟩,
    fun s q r data granted kind cannot halted faulted => ⟨_, rfl, ?write⟩⟩
  case address =>
    have begun : writeStart s = failAnchor .anchorAddress (modPort (fun p =>
        { p with runState := .starting, startFresh := startsFresh s, freshMark := startsFresh s }) s) := by
      unfold writeStart
      rw [if_pos ((haltedOrStopped_iff s).2 stopped)]
      exact if_pos (anchorAddressBad_of bad)
    rw [begun]
    generalize e : modPort _ s = begun
    have starting : begun.port.runState = .starting := by rw [← e]; rfl
    obtain ⟨runState, reason, fault, settings, phase, asked⟩ := enterFaulted_eq
      (s := modPort (fun p => { p with settings := none }) begun) .anchorAddress (by simp [starting])
      (by simp [starting])
    exact ⟨runState, reason, fault, settings, asked, phase⟩
  case chain =>
    have third : errorRead n s = enterFaulted .chainRead (endAsWait 3 (removeRead n s)) := by
      rw [errorRead_eq found sent, purpose]
      show chainReadFailed op (removeRead n s) = _
      unfold chainReadFailed
      rw [if_neg (not_not.2 (show (removeRead n s).walker.examination = some op from examining))]
      show (if Config.chainReadLimit ≤ s.walker.readFailures + 1 then
        enterFaulted .chainRead (endAsWait (s.walker.readFailures + 1) (removeRead n s)) else _) = _
      rw [failures]
      rfl
    have running' : (endAsWait 3 (removeRead n s)).port.runState = .running := running
    rw [third]
    obtain ⟨runState, reason, fault, -, phase, -⟩ := enterFaulted_eq (s := endAsWait 3 (removeRead n s)) .chainRead
      (by simp [running']) (by simp [running'])
    exact ⟨runState, reason, fault, phase⟩
  case write =>
    have failed : grantTurn s = writeFailed r.purpose (grantedState s q r) := by
      rw [grantTurn_of_grant granted]
      unfold acceptRequest
      rw [kind]
      refine if_neg ?_
      rw [canSend_grantedState, inWindow_grantedState, Bool.and_eq_true, not_and_or, Bool.not_eq_true, Bool.not_eq_true]
      exact cannot
    rw [failed]
    obtain ⟨runState, reason, fault, -, -, -⟩ := enterFaulted_eq (s := grantedState s q r) .writeFailed
      (by simpa using halted) (by simpa using faulted)
    have dropped := writeDropped_control r.purpose (enterFaulted .writeFailed (grantedState s q r))
    exact ⟨dropped.runState.trans runState, dropped.faultReason.trans reason,
      (congrArg CauseSet.fault dropped.causes).trans fault⟩

/-! ## The anchor's tests -/

theorem rangeInside_eq_false_iff (base size address length : Nat) :
    rangeInside base size address length = false ↔ address < base ∨ base + size < address + length := by
  unfold rangeInside
  rw [Bool.and_eq_false_iff, decide_eq_false_iff_not, decide_eq_false_iff_not, Nat.not_le, Nat.not_le]

theorem windowBad_iff (w : Settings) : windowBad w = true ↔ w.windowBase % 4096 ≠ 0 ∨ w.windowSize = 0 ∨
    2 ^ 64 < w.windowBase + w.windowSize ∨ w.anchor < w.windowBase ∨
      w.windowBase + w.windowSize < w.anchor + 512 := by
  unfold windowBad
  simp only [Bool.or_eq_true, decide_eq_true_eq, Bool.not_eq_true', rangeInside_eq_false_iff, or_assoc]

theorem poolBad_iff (w : Settings) : poolBad w = true ↔ w.poolCount < 16 ∨ 4096 < w.poolCount ∨
    w.poolBase % 64 ≠ 0 ∨ w.poolBase < w.windowBase ∨
      w.windowBase + w.windowSize < w.poolBase + 16 * w.poolCount := by
  unfold poolBad
  simp only [Bool.or_eq_true, decide_eq_true_eq, Bool.not_eq_true', rangeInside_eq_false_iff, or_assoc]

theorem directoryBad_iff (w : Settings) : directoryBad w = true ↔ w.directoryCount < 1 ∨ 256 < w.directoryCount ∨
    w.directory % 64 ≠ 0 ∨ w.directory < w.windowBase ∨
      w.windowBase + w.windowSize < w.directory + 64 * w.directoryCount := by
  unfold directoryBad
  simp only [Bool.or_eq_true, decide_eq_true_eq, Bool.not_eq_true', rangeInside_eq_false_iff, or_assoc]

/-- Settles O16: the tests one after another, each passing before the next. -/
theorem anchorTestsGiveTheFirstReason : Obligations.AnchorTestsGiveTheFirstReason := by
  intro anchor bytes w
  have tests : anchorTests anchor bytes = if leNat (bytes.take 4) ≠ 1 then some .anchorLayout
      else if windowBad w then some .anchorWindow else if poolBad w then some .anchorPool
      else if directoryBad w then some .anchorDirectory else none := rfl
  rw [← poolBad_iff, ← directoryBad_iff,
    show anchor = w.anchor from rfl, ← windowBad_iff, show w.anchor = anchor from rfl, tests]
  by_cases layout : leNat (bytes.take 4) = 1
  · cases windowBad w <;> cases poolBad w <;> cases directoryBad w <;> simp [layout]
  · simp [layout]

/-! ## The rest of STARTING -/

/-- A request found by its number in the queue or ahead of it. -/
theorem findRequest_lineIdle (number : Nat) (s : State) :
    findRequest number (lineIdle s).bus = findRequest number s.bus := rfl

/-- A reply that ends its request: the line IDLE, the request gone, the outcome with its requester (R154, R155). -/
theorem replyCame_final {s : State} {r : BusRequest} {bytes data : List Byte} {code : Nat}
    (line : s.bus.line = .receiving) (attempt : s.bus.attempt = some r.number)
    (found : findRequest r.number s.bus = some r) (reply : readReply r.command bytes = some (code, data))
    (busy : code ≠ 4) :
    replyCame bytes s = reportResult (countOutcome (replyOutcome code) r) (replyOutcome code) code data
      { s with
        bus := removeRequest r.number
          { s.bus with line := .idle, gap := 0, breakOff := false, attempt := none, corruptRun := 0 } } := by
  have awaited : awaitingReply s.bus = some r.number := by simp [awaitingReply, line, attempt]
  have outcome : replyOutcome code = .ok ∨ replyOutcome code = .refused := by
    unfold replyOutcome
    split
    · exact .inr rfl
    · exact .inl (if_neg busy)
  unfold replyCame
  rw [awaited, Option.bind_some, found]
  dsimp only
  rw [reply]
  dsimp only
  unfold attemptEnds
  rw [findRequest_lineIdle, found]
  rcases outcome with ok | refused
  · rw [ok]
    rfl
  · rw [refused]
    rfl

/-- Nothing is handed over while rate and flag stand as they did (R167). -/
theorem handRate_same {s : State} (rate : s.port.rate = s.bus.rate) (degraded : s.port.degraded = s.bus.degraded) :
    handRate s = s := by
  unfold handRate
  rw [if_pos (by simp [rate, degraded])]

/-- A pulse begun with no telegram waiting, at BASE (R163, R164). -/
theorem beginClear_of_empty {s : State} (requester : ClearRequester) (noClear : s.bus.pendingClear = none)
    (noRate : s.bus.rateRequest = none) (noQueue : s.bus.queue = []) (base : s.port.rate = .base)
    (degraded : s.port.degraded = s.bus.degraded) : beginClear requester s = takeLine requester s := by
  unfold beginClear
  rw [noClear, noRate, noQueue]
  exact handRate_same base degraded

/-- The anchor accepted in the form of R182: zero group, RESUME, plate-change flag, clear pulse. -/
theorem acceptAnchor_fresh {s : State} (w : Settings) (fresh : s.port.startFresh = true)
    (noClear : s.bus.pendingClear = none) (noRate : s.bus.rateRequest = none) (noQueue : s.bus.queue = [])
    (base : s.port.rate = .base) (degraded : s.port.degraded = s.bus.degraded) :
    acceptAnchor w s = takeLine .runControl (modBus (fun b => { b with start := some .pulse })
      (setPlateChange (sendResume (presentControl [writeRequest (w.anchor + 256) (zeroBytes 44) .zeroGroup]
        (modPort (fun p => { p with
          settings := some w, zeroPending := true, noticeCount := 0, presence := .none, startStep := .busPart })
          s))))) := by
  unfold acceptAnchor
  rw [if_pos fresh]
  exact beginClear_of_empty .runControl noClear noRate noQueue base degraded

/-- The anchor accepted in the form of R183: take index, plate-change flag, roll call. -/
theorem acceptAnchor_again {s : State} (w : Settings) (again : s.port.startFresh = false)
    (room : s.bus.queue.length ≤ 3) :
    acceptAnchor w s =
      { s with
        port := { s.port with
          settings := some w
          startStep := .busPart
          writerRequests := s.port.writerRequests ++ if w.poolCount ≤ s.writer.commonTake then
            [⟨.write (leBytes 4 0), w.anchor + 264, .poolWrite, false⟩] else [] }
        writer := { s.writer with
          commonTake := if w.poolCount ≤ s.writer.commonTake then 0 else s.writer.commonTake }
        plate := { s.plate with plateChange := true }
        bus := { s.bus with
          start := some .rollCall
          pings := [1, 2, 3, 4, 5]
          queue := [1, 2, 3, 4, 5].foldl (fun q address => queueInsert
            (newRequest (s.bus.nextRequest + (address - 1)) (.rollCall address) 4 address 1 []) q) s.bus.queue
          nextRequest := s.bus.nextRequest + 5 } } := by
  unfold acceptAnchor
  rw [if_neg (ne_true_of_eq_false again)]
  unfold acceptAgain
  rw [checkTakeIndex_eq (w := w) rfl]
  exact beginRollCall_eq room

theorem fieldNat_single (b : Byte) : fieldNat [b] 0 1 = b.toNat := by
  simp [fieldNat, leNat]

/-- The last PING out is answered by its module: the roll call is over (R168). -/
theorem pingResult_last {s : State} {address : Nat} {kind : Byte} (pings : s.bus.pings = [address])
    (start : s.bus.start = some .rollCall) :
    pingResult address .ok 1 [kind] s = rollCallDone
      { s with bus := { s.bus with
        presence := setPresence address (kind.toNat = address) s.bus.presence, pings := [] } } := by
  have present : (doneNow .ok 1 && decide (fieldNat [kind] 0 1 = address)) = decide (kind.toNat = address) := by
    rw [fieldNat_single]
    rfl
  unfold pingResult
  rw [if_pos (by rw [pings]; exact List.mem_singleton_self _), present]
  simp [modBus, pings, start]

/-- Settles O17. -/
theorem acceptedAnchorBeginsTheBusPart : Obligations.AcceptedAnchorBeginsTheBusPart := by
  refine ⟨?fresh, ?again, ?zero, ?lastPing, ?report⟩
  case fresh =>
    intro s n op data arrives fresh noClear noRate noQueue base degraded
    refine ⟨_, arrives.exec_eq, ?_⟩
    rw [acceptAnchor_fresh
      (s := modPort (fun p => { p with startStep := .idle, anchorPieces := [] }) (removeRead n s)) _ fresh noClear
      noRate noQueue base degraded]
    exact ⟨rfl, rfl, rfl, rfl, rfl, rfl, rfl, rfl⟩
  case again =>
    intro s n op data arrives again room anchor w beyond ping
    refine .of_settle arrives.exec_eq ?_
    rw [acceptAnchor_again
      (s := modPort (fun p => { p with startStep := .idle, anchorPieces := [] }) (removeRead n s)) _ again room]
    simp [beyond, w, anchor, removeRead, modPort, ping, parseSettings]
  case zero =>
    intro s q r data due purpose t
    exact due.effects (by rw [purpose]; rfl)
  case lastPing =>
    intro s w r address kind bytes line attempt found requester reply pings start settings presence ended
    have answered : replyCame bytes s = rollCallDone { s with bus := ended } := by
      rw [replyCame_final line attempt found reply (by decide)]
      show (match r.requester with
        | .plate => _
        | .rollCall address => pingResult address .ok 1 [kind] _
        | .rate => _) = _
      rw [requester]
      exact pingResult_last pings start
    refine ⟨?done, ?trim⟩
    case done =>
      intro base
      refine .of_settle rfl ?_
      rw [answered]
      unfold rollCallDone
      rw [if_neg (by rcases base with off | off <;> simp [off, settings])]
      simp [busPartDone, modPort, modBus, presentControl, rateRequestGroup, anchorField, settings, writeRequest,
        presence, ended, removeRequest]
    case trim =>
      intro fresh quick
      refine .of_settle rfl ?_
      rw [answered]
      unfold rollCallDone
      rw [if_pos (by simp [fresh, quick, settings])]
      rfl
  case report =>
    intro s q r data due purpose starting reporting t running
    refine due.effects ?_
    rw [purpose]
    show startReported t = _
    unfold startReported
    rw [if_pos (by simp [t, starting, reporting]), setCause_eq, setCause_eq]
    rfl

end Sys2Proof.Machine
end

section
/-! PROOFS. STOP and ABORT, the arbiter and the walk's reads (R124 to R130, R173 to R177, R184 to R186). -/

namespace Sys2Proof.Machine

/-! ## Events that settle at once -/

/-- Nothing in the blocks around run control is due: they are quiet, no order is held, no fallback asks for a pulse. -/
structure NothingDue (s : State) : Prop where
  others : OthersQuiet s
  order : s.plate.order = none
  fallback : s.plate.fallbackMark = false
  taken : s.walker.taken = none
  active : s.walker.active = none

theorem busAdvance_of_quiet {s : State} (h : OthersQuiet s) : busAdvance s = none := by
  unfold busAdvance readyRequest
  rw [h.rate, h.queue]
  simp [trimDue, h.start]

/-- Then run control's own transition is the only one that may be due, outside RUNNING (log 21). -/
theorem advance_of_nothingDue {s : State} (h : NothingDue s) (running : s.port.runState ≠ .running) :
    advance s = controlAdvance s := by
  have mark : markAdvance s = none := by simp [markAdvance, h.others.fifo]
  have grant : grantAdvance s = none := by simp [grantAdvance, h.others.reservation]
  have trigger : triggerAdvance s = none := by simp [triggerAdvance, h.others.trigger]
  have plate : plateAdvance s = none := by simp [plateAdvance, h.order]
  have fallback : fallbackAdvance s = none := by simp [fallbackAdvance, h.fallback]
  have merge : mergeAdvance s = none := by simp [mergeAdvance, h.others.merge]
  have resolve : resolveAdvance s = none := by simp [resolveAdvance, h.taken]
  have work : workAdvance s = none := by simp [workAdvance, h.others.work]
  have setup : setupAdvance s = none := by simp [setupAdvance, h.taken]
  have activation : activationAdvance s = none := by simp [activationAdvance, h.taken]
  have final : finalAdvance s = none := by simp [finalAdvance, h.active]
  have writer : writerAdvance s = none := by simp [writerAdvance, h.others.writer]
  have walk : walkAdvance s = none := by simp [walkAdvance, running]
  have bus := busAdvance_of_quiet h.others
  unfold advance firstDue
  simp only [List.findSome?_cons, List.findSome?_nil, mark, grant, trigger, plate, fallback, merge, resolve, work,
    setup,
    activation, final, writer, walk, bus]
  cases controlAdvance s <;> rfl

/-- One transition is due, and none after it. -/
theorem settle_of_one {s t : State} (first : advance s = some t) (quiet : advance t = none) : settle s = t := by
  unfold settle settleFuel settleFor
  rw [first]
  dsimp only
  unfold settleFor
  rw [quiet]

theorem withdrawing_eq_false {s : State} (h : ∀ r ∈ s.port.walkerRequests, r.purpose ≠ .withdrawnState) :
    withdrawing s = false := by
  unfold withdrawing
  rw [List.any_eq_false]
  exact fun r hr => by simpa using h r hr

/-- DRAINING with nothing due and no order held is STOPPED in the event (R185). -/
theorem settle_draining {s : State} (h : NothingDue s) (draining : s.port.runState = .draining)
    (none : ∀ r ∈ s.port.walkerRequests, r.purpose ≠ .withdrawnState) :
    settle s = setCause .settled (setRunState .stopped s) := by
  have stopped : controlAdvance s = some (setCause .settled (setRunState .stopped s)) := by
    unfold controlAdvance noOrderHeld
    rw [withdrawing_eq_false none]
    simp [draining, h.taken, h.active]
  have after : NothingDue (setCause .settled (setRunState .stopped s)) := by
    rw [setCause_eq]
    exact ⟨⟨h.others.fifo, h.others.reservation, h.others.trigger, h.others.merge, h.others.work, h.others.writer,
      h.others.queue, h.others.rate, h.others.start⟩, h.order, h.fallback, h.taken, h.active⟩
  have runState : (setCause .settled (setRunState .stopped s)).port.runState = .stopped := by
    rw [setCause_eq]
    rfl
  refine settle_of_one ((advance_of_nothingDue h (by simp [draining])).trans stopped) ?_
  rw [advance_of_nothingDue after (by simp [runState])]
  simp [controlAdvance, abortPulseDue, runState]

/-- STOP in RUNNING (R185, R126). -/
theorem writeStop_eq {s : State} (running : s.port.runState = .running) : writeStop s =
    { s with
      port := { s.port with
        runState := .draining
        walkerRequests := s.port.walkerRequests.filter fun r => !chainPurpose r.purpose }
      walker := { s.walker with
        phase := .off
        examination := none
        recheckTimer := if s.walker.taken.isSome then s.walker.recheckTimer else none } } := by
  unfold writeStop
  rw [if_pos running]
  rfl

theorem noOrderHeld_iff (s : State) : noOrderHeld s = true ↔
    ¬(s.walker.taken ≠ none ∨ s.walker.active ≠ none ∨ ∃ r ∈ s.port.walkerRequests, r.purpose = .withdrawnState) := by
  simp [noOrderHeld, withdrawing, not_or, and_assoc]

/-- The walker's requests after a turn are among those before it. -/
theorem takeWaiting_walkerRequests {s : State} {q : Requester} {r : Request}
    (h : r ∈ (takeWaiting q s).port.walkerRequests) : r ∈ s.port.walkerRequests := by
  revert h
  unfold takeWaiting
  split
  · split
    · exact List.mem_of_mem_tail
    · split
      · exact List.mem_of_mem_eraseP
      · exact id
  · split
    · split
      · unfold entryGranted
        dsimp only
        split <;> exact id
      · exact id
    · exact id
  · exact id
  · exact id

/-- The end of a clear pulse in the Plate Controller leaves the port, but for requests, and the bus (R4, R199). -/
theorem plateCleared_parts (own : Bool) (s : State) :
    ∃ active plate intake cache merge writer walkerRequests writerRequests, plateCleared own s =
      { s with
        walker := { s.walker with active := active }
        plate := plate, intake := intake, cache := cache, merge := merge, writer := writer
        port := { s.port with walkerRequests := walkerRequests, writerRequests := writerRequests } } := by
  unfold plateCleared
  dsimp only
  generalize hc : modPlate _ s = cleared
  obtain ⟨active, plate, intake, cache, merge, writer, walkerRequests, writerRequests, e⟩ :=
    failActive_parts .busFailure cleared
  split
  · exact ⟨active, plate, intake, cache, merge, writer, walkerRequests, writerRequests, by rw [e, ← hc]; rfl⟩
  · split
    · exact ⟨active, plate, intake, cache, merge, writer, walkerRequests, writerRequests, by rw [e, ← hc]; rfl⟩
    · exact ⟨s.walker.active, cleared.plate, _, _, _, _, _, _, by rw [← hc]; rfl⟩

theorem releaseLine_parts (s : State) : ∃ trimValid degraded, releaseLine s =
    { s with bus := { s.bus with
      line := .idle, gap := 0, breakOff := false, trimValid := trimValid, degraded := degraded } } := by
  unfold releaseLine
  dsimp only
  split <;> exact ⟨_, _, rfl⟩

/-- The state after ABORTING's last write: STOPPED with SETTLED where the pulse was its own (R184, R186). -/
theorem settleAborting_eq {s : State} (aborting : s.port.runState = .aborting) (pulsing : s.port.startStep = .pulsing) :
    settleAborting s =
      setCause .settled (modPort (fun p => { p with runState := .stopped, startStep := .idle }) s) := by
  unfold settleAborting
  rw [if_pos (by simp [aborting, pulsing])]

theorem rateAfterPulse_parts (s : State) : ∃ rateRequest nextRequest, rateAfterPulse s =
    { s with bus := { s.bus with rateRequest := rateRequest, nextRequest := nextRequest } } := by
  unfold rateAfterPulse
  split <;> exact ⟨_, _, rfl⟩

/-- ABORTING's clear pulse ends (R163, R186). -/
theorem endClear_aborting {s : State} (aborting : s.port.runState = .aborting) (pulsing : s.port.startStep = .pulsing)
    (asked : .runControl ∈ s.bus.pendingClear.getD []) (start : s.bus.start = none) :
    (endClear s).port.runState = .stopped ∧ (endClear s).port.causes.settled = true ∧
      (endClear s).bus.line = .idle ∧ (endClear s).bus.pendingClear = none := by
  unfold endClear
  dsimp only
  rw [if_pos asked, start, if_neg (by simp)]
  obtain ⟨_, _, released⟩ := releaseLine_parts s
  obtain ⟨_, _, _, _, _, _, _, _, cleared⟩ := plateCleared_parts s.bus.clearOwn (releaseLine s)
  generalize hd : modBus _ (plateCleared s.bus.clearOwn (releaseLine s)) = done
  obtain ⟨_, _, rated⟩ := rateAfterPulse_parts done
  rw [cleared, released] at hd
  have left := handRate_leaves (settleAborting (rateAfterPulse done))
  rw [left.runState, left.causes, left.line, left.pendingClear, rated, ← hd,
    settleAborting_eq (by exact aborting) (by exact pulsing), setCause_eq]
  exact ⟨rfl, rfl, rfl, rfl⟩

/-- Settles O18. -/
theorem stopDrains : Obligations.StopDrains := by
  refine ⟨fun s running => .of_settle rfl (writeStop_eq running), ?held, ?stopped, ?last, ?pulse⟩
  case held =>
    intro s draining held
    have out : abortPulseDue s = false := by simp [abortPulseDue, draining]
    refine ⟨fun h => ?_, fun h => ?_⟩
    · have : noOrderHeld s = false := by
        rw [Bool.eq_false_iff, Ne, noOrderHeld_iff]
        exact not_not.2 h
      simp [controlAdvance, this, out]
    · simp [controlAdvance, draining, (noOrderHeld_iff s).2 h, setRunState, modPort]
  case stopped =>
    intro s running quiet order fallback taken active none
    have due : NothingDue (writeStop s) := by
      rw [writeStop_eq running]
      exact ⟨⟨quiet.fifo, quiet.reservation, quiet.trigger, quiet.merge, quiet.work, quiet.writer,
        quiet.queue, quiet.rate,
        quiet.start⟩, order, fallback, taken, active⟩
    have settled := settle_draining due (by rw [writeStop_eq running])
      (by
        rw [writeStop_eq running]
        exact fun r hr => none r (List.mem_of_mem_filter hr))
    refine ⟨_, congrArg Host.Outcome.next settled, ?_⟩
    rw [setCause_eq, writeStop_eq running]
    exact ⟨rfl, rfl, rfl, rfl⟩
  case last =>
    intro s a r data draining quiet taken active granted kind purpose sendable inside none
    have due : WriteDue s .orderWalker r data := ⟨granted, kind, sendable, inside⟩
    have requests : ∀ x ∈ (sentState s .orderWalker r data).port.walkerRequests, x.purpose ≠ .withdrawnState :=
      fun x hx => none x (takeWaiting_walkerRequests hx)
    have ended : grantTurn s = countFinished (dropActive (sentState s .orderWalker r data)) := by
      rw [due.turn_eq, purpose]
      rfl
    obtain ⟨_, _, _, _, _, _, _, dropped⟩ := dropActive_eq (s := sentState s .orderWalker r data) (a := a)
      (by simpa using active)
    rw [dropped] at ended
    have nothing : NothingDue (grantTurn s) := by
      rw [ended]
      exact ⟨⟨by simpa [countFinished] using quiet.fifo, by simpa [countFinished] using quiet.reservation,
        by simpa [countFinished] using quiet.trigger, by simpa [countFinished] using quiet.merge,
        by simpa [countFinished] using quiet.work, by simpa [countFinished] using quiet.writer,
        by simpa [countFinished] using quiet.queue, by simpa [countFinished] using quiet.rate,
        by simpa [countFinished] using quiet.start⟩, rfl, rfl, by simpa [countFinished] using taken, rfl⟩
    have settled := settle_draining nothing (by rw [ended]; simpa [countFinished] using draining)
      (by
        rw [ended]
        intro x hx
        rcases List.mem_append.1 hx with old | new
        · exact requests x old
        · rw [List.mem_singleton.1 new]
          exact fun h => nomatch h)
    refine ⟨_, congrArg Host.Outcome.next settled, ?_⟩
    rw [setCause_eq, ended]
    exact ⟨rfl, rfl, rfl⟩
  case pulse =>
    intro s clearing aborting pulsing asked start
    refine ⟨pulseOver s, rfl, ?_⟩
    unfold pulseOver
    rw [if_pos clearing]
    exact endClear_aborting aborting pulsing asked start

/-! ## ABORT -/

theorem failActive_of_none {code : ResultCode} {s : State} (active : s.walker.active = none) :
    failActive code s = s := by
  unfold failActive
  rw [active]

theorem endTaken_of_none {code : ResultCode} {state : Nat} {s : State} (taken : s.walker.taken = none) :
    endTaken code state s = s := by
  unfold endTaken
  rw [taken]

/-- ABORT in RUNNING and DRAINING (R186). -/
theorem writeAbort_orders {s : State} (h : s.port.runState = .running ∨ s.port.runState = .draining) :
    writeAbort s = failHeld .aborted (walkOff (setRunState .aborting s)) := by
  unfold writeAbort
  rw [if_neg (by rcases h with h | h <;> simp [h]), if_pos (by rcases h with h | h <;> simp [h])]
  rfl

/-- The walk OFF in ABORTING (R126, R186). -/
theorem walkOff_aborting (s : State) : walkOff (setRunState .aborting s) =
    { s with
      port := { s.port with
        runState := .aborting
        walkerRequests := s.port.walkerRequests.filter fun r => !chainPurpose r.purpose }
      walker := { s.walker with
        phase := .off
        examination := none
        recheckTimer := if s.walker.taken.isSome then s.walker.recheckTimer else none } } := rfl

/-- Settles O19. -/
theorem abortAborts : Obligations.AbortAborts := by
  refine ⟨fun s => ⟨?orders, ?starting⟩, ?taken⟩
  case orders =>
    intro h taken active
    refine .of_settle rfl ?_
    have off : walkOff (setRunState .aborting s) = _ := walkOff_aborting s
    rw [taken] at off
    rw [writeAbort_orders h]
    unfold failHeld failTaken
    rw [endTaken_of_none (s := walkOff (setRunState .aborting s)) taken,
      failActive_of_none (s := walkOff (setRunState .aborting s)) active, off]
    rfl
  case starting =>
    intro starting step trimming
    refine .of_settle rfl ?_
    unfold writeAbort abortStarting
    rw [if_pos starting]
    simp only [setRunState, step, trimming, modPort, modBus, Bool.or_eq_true, decide_eq_true_eq]
  case taken =>
    intro s o h taken ending active
    have ended := endTaken_eq (code := .aborted) (state := stateFailed) (s := walkOff (setRunState .aborting s))
      taken ending
    have held : writeAbort s = endTaken .aborted stateFailed (walkOff (setRunState .aborting s)) := by
      rw [writeAbort_orders h]
      unfold failHeld failTaken
      exact failActive_of_none (by rw [ended]; exact active)
    refine ⟨_, (s.port.walkerRequests.filter fun r => !chainPurpose r.purpose).filter fun r => !takenPurpose r.purpose,
      rfl, ?_, ?_, fun r hr => List.mem_of_mem_filter (List.mem_of_mem_filter hr)⟩
    · show (writeAbort s).port.runState = _
      rw [held, ended]
      rfl
    · show (writeAbort s).port.walkerRequests = _
      rw [held, ended]
      rfl

/-! ## The arbiter (R173) -/

/-- The first of a list that gives something, and none before it does. -/
theorem findSome?_map_eq_some_iff {α β : Type} (f : α → Option β) (l : List α) (a : α) (b : β) :
    (l.findSome? fun x => (f x).map fun y => (x, y)) = some (a, b) ↔
      f a = some b ∧ ∃ before after, l = before ++ a :: after ∧ ∀ x ∈ before, f x = none := by
  rw [List.findSome?_eq_some_iff]
  constructor
  · rintro ⟨before, x, after, rfl, found, none⟩
    obtain ⟨y, fx, e⟩ := Option.map_eq_some_iff.1 found
    cases e
    exact ⟨fx, before, after, rfl, fun z hz => by simpa using none z hz⟩
  · rintro ⟨fa, before, after, rfl, none⟩
    exact ⟨before, a, after, rfl, by simp [fa], fun z hz => by simp [none z hz]⟩

/-- Settles O20. -/
theorem arbiterFollowsTheCycle : Obligations.ArbiterFollowsTheCycle := by
  refine ⟨fun s q r => findSome?_map_eq_some_iff (grantable s) (turnOrder s.port) q r,
    fun p => ⟨fun q lock => ?_, fun lock => ⟨fun last => ?_, fun last => ?_, fun last => ?_, fun last => ?_⟩⟩,
    fun s q r waiting => ?waits, fun s q none => ?quiet⟩
  · rw [turnOrder, lock]
  · rw [turnOrder, lock, last]
    rfl
  · rw [turnOrder, lock, last]
    rfl
  · rw [turnOrder, lock, last]
    rfl
  · rw [turnOrder, lock, last]
    rfl
  case waits =>
    unfold grantable
    rw [waiting, Option.filter_some]
    have room : (!isRead r || decide (s.port.reads.length < Config.maxReads)) = true ↔
        ¬(isRead r = true ∧ 32 ≤ s.port.reads.length) := by
      rw [Bool.or_eq_true, Bool.not_eq_true', decide_eq_true_eq, not_and, Nat.not_le, ← Bool.not_eq_true,
        imp_iff_not_or]
      rfl
    by_cases held : isRead r = true ∧ 32 ≤ s.port.reads.length
    · rw [if_pos held, if_neg (mt room.1 (not_not.2 held))]
    · rw [if_neg held, if_pos (room.2 held)]
  case quiet =>
    unfold grantable
    rw [none]
    rfl

/-- Settles O21: by what the turn leaves to the acceptance. -/
theorem grantAcceptsInItsEvent : Obligations.GrantAcceptsInItsEvent := by
  refine ⟨?granted, fun s n data none => ⟨.of_settle rfl ?_, .of_settle rfl ?_, .of_settle rfl ?_⟩⟩
  case granted =>
    intro s q r grants taken granted
    have turn := grantTurn_of_grant grants
    refine ⟨?write, ?read, ?message⟩
    case write =>
      intro data kind sendable inside
      have due : WriteDue s q r data := ⟨grants, kind, sendable, inside⟩
      exact due.effects rfl
    case read =>
      intro length kind sendable inside
      refine .of_settle rfl ?_
      rw [turn]
      unfold acceptRequest
      rw [kind]
      dsimp only
      unfold acceptRead
      rw [if_pos (by simpa using inside), canSend_grantedState, sendable, if_pos rfl]
      simp only [logSent, modPort, grantedState_reads, grantedState_nextRead, grantedState_sent]
      rfl
    case message =>
      intro kind sendable enabled
      refine .of_settle rfl ?_
      rw [turn]
      unfold acceptRequest
      rw [kind]
      dsimp only
      unfold acceptMessage
      rw [grantedState_messageEnable, enabled, if_neg (by decide), canSend_grantedState, if_pos sendable]
      simp only [logSent, modPort, grantedState_sent]
      rfl
  · unfold completeRead
    rw [none]
  · unfold errorRead
    rw [none]
  · unfold timeoutRead
    rw [none]

/-! ## The walk's reads (R125 to R130) -/

theorem candidateBad_iff {s : State} {w : Settings} (settings : s.port.settings = some w) (candidate : Nat) :
    (decide (candidate % 64 ≠ 0) || !inWindow s candidate 64) = true ↔
      candidate % 64 ≠ 0 ∨ candidate < w.windowBase ∨ w.windowBase + w.windowSize < candidate + 64 := by
  unfold inWindow
  rw [settings]
  simp

/-- Settles O22. -/
theorem chainReadDecidesTheExamination : Obligations.ChainReadDecidesTheExamination := by
  intro s n op r w found purpose sent examining settings waiting examined
  have chain : (removeRead n s).walker.examination = some op := examining
  have recheck : recheckLimit (removeRead n s) = w.recheck := settings_getD settings _
  have waits : ∀ failures, endAsWait failures (removeRead n s) = waiting failures := by
    intro failures
    unfold endAsWait
    rw [recheck]
    rfl
  refine ⟨fun length data whole => .of_settle rfl ?_, fun below => ?failed⟩
  · rw [completeRead_eq found sent (whole.trans length.symm), purpose]
    show chainLinkRead op data (removeRead n s) = _
    unfold chainLinkRead
    rw [if_neg (not_not.2 chain), waits, waits]
    dsimp only [examined]
    by_cases zero : leNat data = 0
    · rw [if_pos zero, if_pos zero]
    · rw [if_neg zero, if_neg zero]
      by_cases bad : leNat data % 64 ≠ 0 ∨ leNat data < w.windowBase ∨ w.windowBase + w.windowSize < leNat data + 64
      · rw [if_pos bad, if_pos ((candidateBad_iff (s := removeRead n s) settings _).2 bad)]
        rfl
      · rw [if_neg bad, if_neg (mt (candidateBad_iff (s := removeRead n s) settings _).1 bad)]
        rfl
  case failed =>
    have again : chainReadFailed op (removeRead n s) = waiting (s.walker.readFailures + 1) := by
      unfold chainReadFailed
      rw [if_neg (not_not.2 chain), waits]
      exact if_neg (Nat.not_le.2 below)
    refine ⟨.of_settle rfl ?_, .of_settle rfl ?_⟩
    · rw [errorRead_eq found sent, purpose]
      exact again
    · rw [timeoutRead_eq found, purpose]
      exact again

theorem leNat_lt (bytes : List Byte) : leNat bytes < 256 ^ bytes.length := by
  induction bytes with
  | nil => exact Nat.one_pos
  | cons b rest ih =>
    have := b.isLt
    rw [leNat, List.length_cons, Nat.pow_succ]
    omega

theorem fieldNat_lt (bytes : List Byte) (offset width : Nat) : fieldNat bytes offset width < 256 ^ width :=
  (leNat_lt _).trans_le (Nat.pow_le_pow_right (by decide) (List.length_take_le ..))

/-- What a take makes present at the end of its event: TAKEN's write, whatever the setup finds (R130). -/
theorem beginSetup_parts {o : TakenOrder} {s : State} (taken : s.walker.taken = some o) (ending : o.ending = false) :
    ∃ o', (beginSetup o s).walker.taken = some o' ∧ o'.address = o.address ∧ o'.tag = o.tag ∧
      (beginSetup o s).walker.position = s.walker.position ∧ (beginSetup o s).walker.phase = s.walker.phase ∧
      (beginSetup o s).walker.readFailures = s.walker.readFailures ∧
      ∀ r ∈ s.port.walkerRequests, takenPurpose r.purpose = false → r ∈ (beginSetup o s).port.walkerRequests := by
  have failed : ∀ code, ∃ o', (failTaken code s).walker.taken = some o' ∧ o'.address = o.address ∧ o'.tag = o.tag ∧
      (failTaken code s).walker.position = s.walker.position ∧ (failTaken code s).walker.phase = s.walker.phase ∧
      (failTaken code s).walker.readFailures = s.walker.readFailures ∧
      ∀ r ∈ s.port.walkerRequests, takenPurpose r.purpose = false →
        r ∈ (failTaken code s).port.walkerRequests := by
    intro code
    unfold failTaken
    rw [endTaken_eq taken ending]
    exact ⟨_, rfl, rfl, rfl, rfl, rfl, rfl, fun r hr other =>
      List.mem_append_left _ (List.mem_filter.2 ⟨hr, by simp [other]⟩)⟩
  unfold beginSetup
  split
  · exact failed _
  · split
    · exact failed _
    · have counted : ∀ f, (modTaken f s).walker.taken = some (f o) := fun f => by
        simp only [modTaken, modWalker, taken, Option.map_some]
      exact ⟨_, counted _, rfl, rfl, rfl, rfl, rfl, fun r hr _ => List.mem_append_left _ hr⟩

/-- Settles O23. -/
theorem postedHeaderTakesTheOrder : Obligations.PostedHeaderTakesTheOrder := by
  intro s n op address r data found purpose sent length whole examining posted noCancel
  have chain : (removeRead n s).walker.examination = some op := examining
  have read : exec (.readCompletion n data) s = .next (settle (takeOrder address data (removeRead n s))) := by
    show Host.Outcome.next (settle (completeRead n data s)) = _
    rw [completeRead_eq found sent (whole.trans length.symm), purpose]
    show Host.Outcome.next (settle (chainHeaderRead op address data (removeRead n s))) = _
    unfold chainHeaderRead
    have first : fieldNat data 0 4 = 1 := posted
    have second : fieldNat data 8 4 = 0 := noCancel
    rw [if_neg (not_not.2 chain), if_neg (not_not.2 first), if_neg (not_not.2 second)]
  unfold takeOrder at read
  dsimp only at read
  generalize hp : presentWalker _ _ = presented at read
  have taken : presented.walker.taken = some (newTaken (removeRead n s).nextOp address data) := by rw [← hp]; rfl
  obtain ⟨o, held, place, tag, position, phase, failures, requests⟩ := beginSetup_parts taken rfl
  refine ⟨_, o, read, ?_, ?_, ?_, held, place, ?_, requests _ ?_ rfl⟩
  · rw [position, ← hp]; rfl
  · rw [phase, ← hp]; rfl
  · rw [failures, ← hp]; rfl
  · rw [tag]
    exact (BitVec.toNat_ofNat ..).trans (Nat.mod_eq_of_lt (fieldNat_lt data 12 4))
  · rw [← hp]
    exact List.mem_append_right _ (List.mem_singleton.2 rfl)

/-- Settles O24. -/
theorem rechecksLookAgain : Obligations.RechecksLookAgain := by
  refine ⟨fun s left timer taken waiting => .of_settle rfl ?_,
    fun s left a timer sample active => .of_settle rfl ?_⟩
  · have stopped : walkRecheck s = modWalker (fun w => { w with phase := .examining })
        (modWalker (fun w => { w with recheckTimer := none }) s) := by
      unfold walkRecheck
      rw [timer]
      simp only [modWalker, taken]
      exact if_pos waiting
    exact stopped
  · unfold plateRecheck
    rw [if_pos (by simp [timer, sample])]
    unfold askSample
    rw [show (modPlate (fun p => { p with recheckTimer := none }) s).walker.active = some a from active]
    rfl

end Sys2Proof.Machine
end

section
/-! PROOFS. The Station Bus: the queue, attempts, replies and notices (R148 to R161). -/

namespace Sys2Proof.Machine

/-! ## The queue and the next attempt (R151, R157) -/

theorem queueInsert_append {r : BusRequest} {before : List BusRequest} (after : List BusRequest)
    (h : ∀ q ∈ before, q.priority ≤ r.priority) :
    queueInsert r (before ++ after) = before ++ queueInsert r after := by
  induction before with
  | nil => rfl
  | cons q rest ih =>
    rw [List.cons_append, queueInsert, if_pos (h q List.mem_cons_self),
      ih fun x hx => h x (List.mem_cons_of_mem _ hx)]
    rfl

theorem queueInsert_ahead {r : BusRequest} {after : List BusRequest} (h : ∀ q ∈ after.head?, r.priority < q.priority) :
    queueInsert r after = r :: after := by
  cases after with
  | nil => rfl
  | cons q rest => exact if_neg (Nat.not_le.2 (h q rfl))

/-- A PING's result while another PING is out: the module's presence alone (R168). -/
theorem pingResult_more {a b : Nat} {outcome : BusOutcome} {code : Nat} {reply : List Byte} {s : State}
    (out : a ∈ s.bus.pings) (other : b ∈ s.bus.pings) (ne : b ≠ a) :
    pingResult a outcome code reply s =
      { s with bus := { s.bus with
        presence := setPresence a (doneNow outcome code && fieldNat reply 0 1 = a) s.bus.presence
        pings := s.bus.pings.filter (· ≠ a) } } := by
  have more : (s.bus.pings.filter (· ≠ a)).isEmpty = false := by
    rw [List.isEmpty_eq_false_iff_exists_mem]
    exact ⟨b, List.mem_filter.2 ⟨other, by simpa using ne⟩⟩
  unfold pingResult
  rw [if_pos out]
  simp only [modBus, more, Bool.false_and, Bool.false_eq_true, if_false]

/-- Settles O25. -/
theorem freeLineSendsTheFirstReady : Obligations.FreeLineSendsTheFirstReady := by
  refine ⟨fun s idle breakOff trim => .of_settle rfl ?_, ?begins, fun r before after ahead behind => ?_, ?full,
    fun priority target command data => ?_⟩
  · unfold gapReached
    rw [if_pos (by simp [gapCounts, idle, breakOff, trim])]
    rfl
  case begins =>
    intro s before r after idle gap breakOff trim rate queue rest ready
    have first : readyRequest s.bus = some r := by
      unfold readyRequest
      rw [rate]
      dsimp only
      rw [queue, List.find?_append, List.find?_eq_none.2 (fun q hq => by simp [rest q hq])]
      simp [ready]
    unfold busAdvance
    rw [if_pos (by simp [lineFree, idle, gap, breakOff, trim, Config.gapBits]), first]
    rfl
  · rw [queueInsert_append after ahead, queueInsert_ahead behind]
  case full =>
    intro s a b full out other ne
    unfold sendPing
    rw [if_neg (by simp [queueHasRoom, full, Config.busQueuePlaces]), pingResult_more out other ne]
    rfl
  · refine ⟨?_, ?_, ?_⟩
    · simp only [telegramBytes, List.dropLast_concat]
    · simp only [telegramBytes, List.length_append, List.length_cons, List.length_nil]
      omega
    · simp only [wellChecked, telegramBytes, List.dropLast_concat, List.getLast?_concat, decide_true]

/-! ## Attempts (R155, R156) -/

/-- An attempt that leaves its request in the queue (R155). -/
theorem attemptEnds_stays {s : State} {r : BusRequest} {outcome : BusOutcome} (code : Nat) (reply : List Byte)
    (found : findRequest r.number s.bus = some r) (run : corruptRunFull outcome s.bus.corruptRun = false)
    (final : outcomeFinal outcome r = false) :
    attemptEnds r.number outcome code reply s =
      { s with
        bus := modRequest r.number (fun q => keepReply code reply (countOutcome outcome q))
          { s.bus with attempt := none, corruptRun := corruptAfter outcome s.bus.corruptRun } } := by
  unfold attemptEnds
  dsimp only
  rw [run, found]
  dsimp only
  rw [final]
  rfl

theorem sendingRequest_eq {b : Bus} {n : Nat} (line : b.line = .sending) (attempt : b.attempt = some n) :
    sendingRequest b = some n := by simp [sendingRequest, line, attempt]

theorem awaitingReply_eq {b : Bus} {n : Nat} (line : b.line = .receiving) (attempt : b.attempt = some n) :
    awaitingReply b = some n := by simp [awaitingReply, line, attempt]

/-- Settles O26. -/
theorem attemptsAreCounted : Obligations.AttemptsAreCounted := by
  refine ⟨fun s r found more => ?lost, fun s r attempt found more => ?spoiled, ?third⟩
  case lost =>
    intro counted
    have final : outcomeFinal .lost r = false := decide_eq_false (Nat.not_le.2 more)
    refine ⟨fun waits => .of_settle rfl ?_, fun line attempt => .of_settle rfl ?_⟩
    · unfold headWaited
      rw [waits]
      exact attemptEnds_stays 0 [] found rfl final
    · unfold arbitrationLost
      rw [sendingRequest_eq line attempt]
      exact attemptEnds_stays (s := modBus (fun b => { b with line := .receiving }) s) 0 [] found rfl final
  case spoiled =>
    intro counted corrupt
    have corruptStays : outcomeFinal .corrupt r = false := decide_eq_false (Nat.not_le.2 more)
    have silentStays : outcomeFinal .noReply r = false := decide_eq_false (Nat.not_le.2 more)
    have runOn : s.bus.corruptRun + 1 < 3 → corruptRunFull .corrupt s.bus.corruptRun = false := fun run => by
      simpa [corruptRunFull, Config.corruptLimit] using Nat.le_of_lt_succ (Nat.lt_of_succ_lt_succ run)
    refine ⟨fun line run => .of_settle rfl ?_, fun line run => .of_settle rfl ?_, fun line => .of_settle rfl ?_⟩
    · unfold sendMismatch
      rw [sendingRequest_eq line attempt]
      exact attemptEnds_stays (s := modBus (fun b => { b with line := .idle, gap := 0, breakOff := true }) s) 0 []
        found (runOn run) corruptStays
    · unfold slotDisturbed
      rw [awaitingReply_eq line attempt]
      exact attemptEnds_stays (s := lineIdle s) 0 [] found (runOn run) corruptStays
    · unfold slotSilent
      rw [awaitingReply_eq line attempt]
      exact attemptEnds_stays (s := lineIdle s) 0 [] found rfl silentStays
  case third =>
    intro s n line attempt run noClear
    refine ⟨_, rfl, ?_⟩
    have begins : sendMismatch s = beginClear .busController
        { s with bus := { s.bus with
          line := .idle, gap := 0, breakOff := true, attempt := none, corruptRun := s.bus.corruptRun + 1 } } := by
      unfold sendMismatch
      rw [sendingRequest_eq line attempt]
      unfold attemptEnds
      exact if_pos (by show corruptRunFull .corrupt s.bus.corruptRun = true; rw [run]; rfl)
    have left := beginClear_leaves .busController (s := { s with bus := { s.bus with
      line := .idle, gap := 0, breakOff := true, attempt := none, corruptRun := s.bus.corruptRun + 1 } }) noClear
    rw [begins]
    exact ⟨left.line, left.corruptRun, left.rate, left.attempt, left.queue, by
      rw [left.pendingClear]
      exact List.mem_singleton.2 rfl⟩

/-- Settles O27. -/
theorem lineEventsMoveOn : Obligations.LineEventsMoveOn := by
  refine ⟨fun s n r line attempt found target => .of_settle rfl ?_, fun s n => .of_settle rfl rfl, ?idle,
    fun s => ?noise⟩
  · unfold telegramOut
    rw [sendingRequest_eq line attempt]
    dsimp only
    rw [found]
    exact if_neg target
  case idle =>
    intro s idle
    refine ⟨fun line => .of_settle rfl ?_, fun line attempt => .of_settle rfl ?_, fun line => .of_settle rfl ?_,
      fun can => .of_settle rfl ?_⟩
    · unfold brokenOff
      rw [line]
      rfl
    · unfold brokenOff
      rw [line, attempt]
      rfl
    · exact if_pos line
    · exact if_pos can
  case noise =>
    exact ⟨fun line => congrArg Host.Outcome.next (if_pos line), fun line => congrArg Host.Outcome.next (if_neg line)⟩

end Sys2Proof.Machine
end

section
/-! PROOFS. The replies that the modules make, and what the Plate Controller makes of them (R154, R155, R159, R168, R3
to R16). -/

namespace Sys2Proof.Machine

/-! ## Fields of a reply -/

theorem fieldNat_of_head? {bytes : List Byte} {b : Byte} (h : bytes.head? = some b) : fieldNat bytes 0 1 = b.toNat := by
  cases bytes with
  | nil => exact absurd h (by simp)
  | cons c rest =>
    cases h
    simp [fieldNat, leNat]

theorem toNat_eq_zero_iff (b : Byte) : b.toNat = 0 ↔ b = 0 :=
  ⟨fun h => BitVec.eq_of_toNat_eq (by simpa using h), fun h => by simp [h]⟩

theorem platePresent_iff {reply : List Byte} {present : Byte} (h : reply.head? = some present) :
    platePresent reply = true ↔ present ≠ 0 := by
  unfold platePresent
  rw [fieldNat_of_head? h, decide_eq_true_eq, Ne, toNat_eq_zero_iff]

theorem beNat_beBytes_two (v : Nat) : beNat (beBytes 2 v) = v % 65536 := by
  simp only [beNat, beBytes, List.reverse_reverse, leBytes, leNat, BitVec.toNat_ofNat]
  omega

theorem fieldNat_leBytes_one (v : Nat) (rest : List Byte) : fieldNat (leBytes 1 v ++ rest) 0 1 = v % 256 := by
  rw [fieldNat_of_head? (b := BitVec.ofNat 8 v) rfl]
  exact BitVec.toNat_ofNat ..

/-! ## A failure of the ACTIVE order by an event -/

/-- A failure handed over in a state that keeps the counts of the event's first one (R28, R141). -/
theorem FailsActive.of_failActive {c : Instr} {s t : State} {code : ResultCode}
    (e : exec c s = .next (settle (failActive code t))) (can : CanFail t) (retakes : t.plate.retakes = s.plate.retakes)
    (late : t.plate.lateEvents = s.plate.lateEvents) (thickness : t.plate.thickness = s.plate.thickness) :
    FailsActive c s code := by
  obtain ⟨a, active, primary, ar, al, at', plate⟩ := failActive_canFail (code := code) can
  exact ⟨_, a, e, active, primary, ar.trans retakes, al.trans late, at'.trans (by rw [thickness]), by rw [plate]; rfl,
    by rw [plate]; rfl, by rw [plate]; rfl, by rw [plate]; rfl⟩

/-! ## The outcome of the Plate Controller's telegram -/

/-- The Plate Controller after a telegram of its own, before what follows from it (R5, R6, R9, R11, R197). -/
def stepAnswered (step : PlateStep) (outcome : BusOutcome) (code : Nat) (reply : List Byte) (s : State) : State :=
  modPlate (keepThickness step outcome code reply)
    (modPlate (fun p => { p with awaiting := none }) (standAfterStep step outcome code reply s))

theorem plateResult_passes {step : PlateStep} {outcome : BusOutcome} {code : Nat} {reply : List Byte} {s : State}
    (awaiting : s.plate.awaiting = some step) (slot : ∀ n, step ≠ .service n)
    (passes : stepFailure s step outcome code reply = none) (phase : s.plate.phase ≠ .shutdown) :
    plateResult outcome code reply s = stepPassed step code (stepAnswered step outcome code reply s) := by
  unfold plateResult
  rw [awaiting]
  dsimp only
  split
  · exact absurd rfl (slot _)
  · rw [passes]
    exact if_neg phase

theorem plateResult_fails {step : PlateStep} {outcome : BusOutcome} {code : Nat} {reply : List Byte} {s : State}
    {failure : ResultCode} (awaiting : s.plate.awaiting = some step) (slot : ∀ n, step ≠ .service n)
    (fails : stepFailure s step outcome code reply = some failure) (capture : shutdownStep step = false) :
    plateResult outcome code reply s = failActive failure (stepAnswered step outcome code reply s) := by
  unfold plateResult
  rw [awaiting]
  dsimp only
  split
  · exact absurd rfl (slot _)
  · rw [fails]
    exact if_neg (by simp [wantsFallback, capture])

/-- The counts and the phase of the capture are as the telegram found them, but for a thickness that GAUGE reports. -/
theorem stepAnswered_eq (step : PlateStep) (outcome : BusOutcome) (code : Nat) (reply : List Byte) (s : State) :
    ∃ lid opened change panel ring moving, stepAnswered step outcome code reply s =
      { s with
        plate := keepThickness step outcome code reply
          { s.plate with
            lid := lid, openedSeen := opened, plateChange := change, panel := panel, ring := ring
            movingMark := moving, awaiting := none } } := by
  obtain ⟨lid, opened, change, panel, ring, moving, e⟩ := standAfterStep_eq step outcome code reply s
  exact ⟨lid, opened, change, panel, ring, moving, by rw [stepAnswered, e]; rfl⟩

theorem stepAnswered_canFail {step : PlateStep} {outcome : BusOutcome} {code : Nat} {reply : List Byte} {s : State}
    (h : CanFail s) : CanFail (stepAnswered step outcome code reply s) := by
  obtain ⟨_, _, _, _, _, _, e⟩ := stepAnswered_eq step outcome code reply s
  rw [e]
  refine ⟨?_, h.2⟩
  unfold keepThickness
  dsimp only
  split <;> exact h.1

/-! ## Answers that let the capture go on -/

section
variable (reply : List Byte) (s : State)

theorem stepAnswered_light (channel level : Nat) :
    stepAnswered (.light channel level) .ok 1 reply s =
      { s with plate := { s.plate with awaiting := none, panel := .lit (channel % 256) (level % 65536) } } := by
  rw [← fieldNat_leBytes_one channel (beBytes 2 level), ← beNat_beBytes_two level]
  rfl

theorem stepAnswered_ring (level : Nat) :
    stepAnswered (.ring level) .ok 1 reply s =
      { s with plate := { s.plate with awaiting := none, ring := .lit (level % 65536) } } := by
  rw [← beNat_beBytes_two level]
  rfl

theorem stepAnswered_dark {step : PlateStep} (dark : step = .dark ∨ step = .darkIfLit) :
    stepAnswered step .ok 1 reply s = { s with plate := { s.plate with awaiting := none, panel := .dark } } := by
  rcases dark with rfl | rfl <;> rfl

theorem stepAnswered_ringOff {step : PlateStep} (off : step = .ringOff ∨ step = .ringOffIfLit) :
    stepAnswered step .ok 1 reply s = { s with plate := { s.plate with awaiting := none, ring := .dark } } := by
  rcases off with rfl | rfl <;> rfl

theorem stepAnswered_lid {step : PlateStep} (lid : step = .lidCheck ∨ step = .interlockLid) :
    stepAnswered step .ok 1 reply s =
      { s with plate := { lidAfter .ok 1 reply s.plate with awaiting := none } } := by
  rcases lid with rfl | rfl <;> rfl

theorem stepAnswered_goto (x y : Nat) :
    stepAnswered (.goto x y) .ok 2 reply s =
      { s with plate := { s.plate with awaiting := none, movingMark := true } } := rfl

theorem stepAnswered_gauge (code : Nat) : stepAnswered .gauge .ok code reply s =
    { s with plate := keepThickness .gauge .ok code reply { s.plate with awaiting := none } } := rfl

end

theorem gaugeAnswered_present {reply : List Byte} (s : State) (present : platePresent reply = true) :
    stepAnswered .gauge .ok 1 reply s =
      { s with plate := { s.plate with awaiting := none, thickness := some (gaugeThickness reply) } } := by
  rw [stepAnswered_gauge, keepThickness, if_pos (by simp [present, doneNow, replyDoneNow])]

theorem gaugeAnswered_absent {reply : List Byte} (s : State) (absent : platePresent reply = false) :
    stepAnswered .gauge .ok 1 reply s = { s with plate := { s.plate with awaiting := none } } := by
  rw [stepAnswered_gauge, keepThickness, if_neg (by simp [absent])]

/-! ## The reply in the Plate Controller -/

/-- The bus as a reply that ends its request leaves it (R154, R155). -/
def replyEnded (r : BusRequest) (s : State) : State :=
  { s with
    bus := removeRequest r.number
      { s.bus with line := .idle, gap := 0, breakOff := false, attempt := none, corruptRun := 0 } }

/-- A well-formed reply to a telegram of the Plate Controller is awaited: the hypotheses of the rules of R3 to R16. -/
structure PlateReply (s : State) (r : BusRequest) (step : PlateStep) (bytes : List Byte) (code : Nat)
    (data : List Byte) : Prop where
  line : s.bus.line = .receiving
  attempt : s.bus.attempt = some r.number
  found : findRequest r.number s.bus = some r
  plate : r.requester = .plate
  reply : readReply r.command bytes = some (code, data)
  awaiting : s.plate.awaiting = some step
  slot : ∀ n, step ≠ .service n

theorem PlateReply.passes {s : State} {r : BusRequest} {step : PlateStep} {bytes : List Byte} {code : Nat}
    {data : List Byte} (h : PlateReply s r step bytes code data) (ok : code = 1 ∨ code = 2)
    (passes : stepFailure (replyEnded r s) step .ok code data = none) (phase : s.plate.phase ≠ .shutdown) :
    replyCame bytes s = stepPassed step code (stepAnswered step .ok code data (replyEnded r s)) := by
  have answered : (if code = 3 then BusOutcome.refused else .ok) = .ok := if_neg (by omega)
  rw [replyCame_plate h.line h.attempt h.found h.plate h.reply (by omega), answered]
  exact plateResult_passes (s := replyEnded r s) h.awaiting h.slot passes phase

theorem PlateReply.fails {s : State} {r : BusRequest} {step : PlateStep} {bytes : List Byte} {code : Nat}
    {data : List Byte} {failure : ResultCode} (h : PlateReply s r step bytes code data) (busy : code ≠ 4)
    (fails : stepFailure (replyEnded r s) step (if code = 3 then .refused else .ok) code data = some failure)
    (capture : shutdownStep step = false) :
    replyCame bytes s =
      failActive failure (stepAnswered step (if code = 3 then .refused else .ok) code data (replyEnded r s)) := by
  rw [replyCame_plate h.line h.attempt h.found h.plate h.reply busy]
  exact plateResult_fails (s := replyEnded r s) h.awaiting h.slot fails capture

/-- A failure that the reply hands over keeps the order's counts where GAUGE reports no plate (R28, R141). -/
theorem PlateReply.failsActive {s : State} {r : BusRequest} {step : PlateStep} {bytes : List Byte} {code : Nat}
    {data : List Byte} {failure : ResultCode} (h : PlateReply s r step bytes code data) (busy : code ≠ 4)
    (fails : stepFailure (replyEnded r s) step (if code = 3 then .refused else .ok) code data = some failure)
    (capture : shutdownStep step = false) (can : CanFail s)
    (none : step = .gauge → code = 1 → platePresent data = false) :
    FailsActive (.replyReceived bytes) s failure := by
  obtain ⟨_, _, _, _, _, _, answered⟩ :=
    stepAnswered_eq step (if code = 3 then BusOutcome.refused else .ok) code data (replyEnded r s)
  have thickness : ∀ p, keepThickness step (if code = 3 then BusOutcome.refused else .ok) code data p = p := by
    intro p
    refine if_neg fun e => ?_
    simp only [Bool.and_eq_true, decide_eq_true_eq, doneNow, replyDoneNow] at e
    obtain ⟨⟨gauge, -, one⟩, present⟩ := e
    exact absurd present (by simp [none gauge (of_decide_eq_true one)])
  rw [thickness] at answered
  refine .of_failActive (congrArg (fun u => Host.Outcome.next (settle u)) (h.fails busy fails capture))
    (stepAnswered_canFail can) ?_ ?_ ?_ <;> rw [answered] <;> rfl

theorem lidAfter_opened {reply : List Byte} (p : Plate) (opened : reply.head? = some 1) :
    lidAfter .ok 1 reply p = lidOpen p := by
  have byte : fieldNat reply 0 1 = 1 := fieldNat_of_head? opened
  unfold lidAfter
  rw [if_pos (by decide), if_pos byte]

theorem lidAfter_closed {reply : List Byte} (p : Plate) (closed : reply.head? = some 2) :
    lidAfter .ok 1 reply p = lidClosed p := by
  have byte : fieldNat reply 0 1 = 2 := fieldNat_of_head? closed
  unfold lidAfter
  rw [if_pos (by decide), if_neg (by omega), if_pos byte]

theorem lidCheck_passes {step : PlateStep} {reply : List Byte} {s : State}
    (lid : step = .lidCheck ∨ step = .interlockLid) (state : reply.head? = some 1 ∨ reply.head? = some 2)
    (phase : s.plate.phase ≠ .shutdown) : stepFailure s step .ok 1 reply = none := by
  have byte : fieldNat reply 0 1 = 1 ∨ fieldNat reply 0 1 = 2 := state.imp fieldNat_of_head? fieldNat_of_head?
  have passes : lidFailure s step .ok 1 reply = none := by
    simp [lidFailure, doneNow, replyDoneNow, byte, phase]
  rcases lid with rfl | rfl <;> exact passes

section
variable {s : State} {number motion frame recheck : Nat} {tag : Word32} {exposure : List Nat}

theorem gaugeFailure_plate {b : PlateBody} (reply : List Byte)
    (order : s.plate.order = some ⟨number, tag, .plate b, motion, frame, recheck, exposure⟩) :
    stepFailure s .gauge .ok 1 reply = if platePresent reply then none else some .noPlate := by
  show gaugeFailure s .ok 1 reply = _
  unfold gaugeFailure
  rw [order]
  rfl

theorem gaugeFailure_reference {b : ReferenceBody} (reply : List Byte)
    (order : s.plate.order = some ⟨number, tag, .reference b, motion, frame, recheck, exposure⟩) :
    stepFailure s .gauge .ok 1 reply = if platePresent reply then some .platePresent else none := by
  show gaugeFailure s .ok 1 reply = _
  unfold gaugeFailure
  rw [order]
  rfl

theorem gaugePassed_plate {b : PlateBody}
    (order : s.plate.order = some ⟨number, tag, .plate b, motion, frame, recheck, exposure⟩) :
    gaugePassed s = modPlate (fun p => { p with phase := .tileBoundary, capture := 0 }) s := by
  unfold gaugePassed
  rw [order]

theorem gaugePassed_reference {b : ReferenceBody}
    (order : s.plate.order = some ⟨number, tag, .reference b, motion, frame, recheck, exposure⟩) :
    gaugePassed s = modPlate (fun p => { p with phase := .moving, plan := movePlan b.x b.y }) s := by
  unfold gaugePassed
  rw [order]

end

theorem platePresent_eq_false {reply : List Byte} {present : Byte} (h : reply.head? = some present)
    (absent : present = 0) : platePresent reply = false :=
  Bool.eq_false_iff.2 fun e => (platePresent_iff h).1 e absent

/-- A BUSY answer before the sixth is counted, and the request rests (R155). -/
theorem replyCame_busyRests {s : State} {r : BusRequest} {bytes data : List Byte} (line : s.bus.line = .receiving)
    (attempt : s.bus.attempt = some r.number) (found : findRequest r.number s.bus = some r)
    (reply : readReply r.command bytes = some (4, data)) (busy : r.busy < 5) :
    replyCame bytes s =
      { s with
        bus := modRequest r.number (fun q =>
            if q.busy < 5 then
              { q with busy := q.busy + 1, resting := true, lastOutcome := .busy, replyCode := 4, replyData := data }
            else { q with lastOutcome := .busy, replyCode := 4, replyData := data })
          { s.bus with line := .idle, gap := 0, breakOff := false, attempt := none, corruptRun := 0 } } := by
  have final : outcomeFinal .busy r = false := decide_eq_false (Nat.not_le.2 busy)
  have counts : (fun q => keepReply 4 data (countOutcome .busy q)) = fun q : BusRequest =>
      if q.busy < 5 then
        { q with busy := q.busy + 1, resting := true, lastOutcome := .busy, replyCode := 4, replyData := data }
      else { q with lastOutcome := .busy, replyCode := 4, replyData := data } := by
    funext q
    simp only [countOutcome, Config.busyLimit]
    split <;> rename_i less <;> simp only [less, if_true, if_false] <;> rfl
  unfold replyCame
  rw [awaitingReply_eq line attempt, Option.bind_some, found]
  dsimp only
  rw [reply]
  refine (attemptEnds_stays (s := lineIdle s) (outcome := .busy) 4 data found rfl final).trans ?_
  rw [counts]
  rfl

/-- A step of the panel or the ring that is accepted late or refused is a lamp fault (R3, R9). -/
theorem lampStep_fails {s : State} {step : PlateStep} {code : Nat} {data : List Byte} (codes : code = 2 ∨ code = 3)
    (lit : ((∃ channel level, step = .light channel level) ∨ step = .dark ∨ step = .darkIfLit) ∨
      ((∃ level, step = .ring level) ∨ step = .ringOff ∨ step = .ringOffIfLit)) :
    (∀ n, step ≠ .service n) ∧ shutdownStep step = false ∧ step ≠ .gauge ∧
      stepFailure s step (if code = 3 then .refused else .ok) code data = some .lampFault := by
  rcases lit with (⟨_, _, rfl⟩ | rfl | rfl) | (⟨_, rfl⟩ | rfl | rfl) <;> rcases codes with rfl | rfl <;>
    exact ⟨(fun n h => nomatch h), rfl, (fun h => nomatch h), rfl⟩

/-- Settles O28. -/
theorem repliesEndTheAttempt : Obligations.RepliesEndTheAttempt := by
  refine ⟨fun s r bytes line attempt found => ?attempt, ?goto, ?answered, ?failed⟩
  case attempt =>
    intro ended
    refine ⟨fun data reply busy => .of_settle rfl ?_, fun a b kind reply rollCall out other ne => .of_settle rfl ?_⟩
    · exact replyCame_busyRests line attempt found reply busy
    · rw [replyCame_final line attempt found reply (by decide)]
      unfold reportResult
      rw [show (countOutcome (replyOutcome 1) r).requester = .rollCall a from rollCall]
      refine (pingResult_more (by exact out) (by exact other) ne).trans ?_
      rw [fieldNat_single]
      rfl
  case goto =>
    intro s r o x y bytes line attempt found plate reply awaiting order phase
    refine .of_settle rfl ?_
    have come : PlateReply s r (.goto x y) bytes 2 [] :=
      ⟨line, attempt, found, plate, reply, awaiting, fun n h => nomatch h⟩
    rw [come.passes (.inr rfl) rfl phase, stepAnswered_goto]
    unfold stepPassed
    refine (if_pos rfl).trans ?_
    simp only [modPlate, replyEnded, order]
    rfl
  case answered =>
    intro s r o step bytes data line attempt found plate reply awaiting order phase ended answered becomes lidRead
      thickness
    have come : (∀ n, step ≠ .service n) → PlateReply s r step bytes 1 data :=
      fun slot => ⟨line, attempt, found, plate, reply, awaiting, slot⟩
    refine ⟨?_, ?_, ?_, ?_, ?_, ?_, ?gauge⟩
    · rintro channel level rfl
      refine .of_settle rfl ?_
      rw [(come (fun n h => nomatch h)).passes (.inl rfl) rfl phase, stepAnswered_light]
      rfl
    · rintro level rfl
      refine .of_settle rfl ?_
      rw [(come (fun n h => nomatch h)).passes (.inl rfl) rfl phase, stepAnswered_ring]
      rfl
    · intro dark
      refine .of_settle rfl ?_
      rw [(come (by rcases dark with rfl | rfl <;> exact fun n h => nomatch h)).passes (.inl rfl)
        (by rcases dark with rfl | rfl <;> rfl) phase, stepAnswered_dark _ _ dark]
      rcases dark with rfl | rfl <;> rfl
    · intro off
      refine .of_settle rfl ?_
      rw [(come (by rcases off with rfl | rfl <;> exact fun n h => nomatch h)).passes (.inl rfl)
        (by rcases off with rfl | rfl <;> rfl) phase, stepAnswered_ringOff _ _ off]
      rcases off with rfl | rfl <;> rfl
    · intro lid opened
      refine .of_settle rfl ?_
      rw [(come (by rcases lid with rfl | rfl <;> exact fun n h => nomatch h)).passes (.inl rfl)
        (lidCheck_passes lid (.inl opened) phase) phase, stepAnswered_lid _ _ lid, lidAfter_opened _ opened]
      rcases lid with rfl | rfl <;> rfl
    · intro lid closed
      refine .of_settle rfl ?_
      rw [(come (by rcases lid with rfl | rfl <;> exact fun n h => nomatch h)).passes (.inl rfl)
        (lidCheck_passes lid (.inr closed) phase) phase, stepAnswered_lid _ _ lid, lidAfter_closed _ closed]
      rcases lid with rfl | rfl <;> rfl
    case gauge =>
      rintro rfl present head
      have arrives := come (fun n h => nomatch h)
      obtain ⟨number, tag, body, motion, frame, recheck, exposure⟩ := o
      refine ⟨?_, ?_⟩
      · rintro b rfl
        have failure := gaugeFailure_plate (s := replyEnded r s) data order
        refine ⟨fun there => .of_settle rfl ?_, fun absent can => ?_⟩
        · have shown := (platePresent_iff head).2 there
          rw [shown] at failure
          rw [arrives.passes (.inl rfl) failure phase, gaugeAnswered_present _ shown]
          exact gaugePassed_plate order
        · have none := platePresent_eq_false head absent
          rw [none] at failure
          exact arrives.failsActive (by decide) failure rfl can fun _ _ => none
      · rintro b rfl
        have failure := gaugeFailure_reference (s := replyEnded r s) data order
        refine ⟨fun absent => .of_settle rfl ?_, fun there can => ?_⟩
        · have none := platePresent_eq_false head absent
          rw [none] at failure
          rw [arrives.passes (.inl rfl) failure phase, gaugeAnswered_absent _ none]
          exact gaugePassed_reference order
        · have shown := (platePresent_iff head).2 there
          rw [shown] at failure
          have fails : replyCame bytes s = failActive .platePresent (stepAnswered .gauge .ok 1 data (replyEnded r s)) :=
            arrives.fails (by decide) failure rfl
          obtain ⟨a, active, primary, -, -, thick, plate⟩ := failActive_canFail (code := .platePresent)
            (stepAnswered_canFail (step := .gauge) (outcome := .ok) (code := 1) (reply := data)
              (s := replyEnded r s) can)
          refine ⟨_, a, congrArg (fun u => Host.Outcome.next (settle u)) fails, (by rw [plate]; rfl), active, primary,
            ?_⟩
          rw [thick]
          show (stepAnswered .gauge .ok 1 data (replyEnded r s)).plate.thickness.getD 0 = _
          rw [gaugeAnswered_present _ shown]
          rfl
  case failed =>
    intro s r step bytes data code line attempt found plate reply codes awaiting can lamp ring failed
    have come : (∀ n, step ≠ .service n) → PlateReply s r step bytes code data :=
      fun slot => ⟨line, attempt, found, plate, reply, awaiting, slot⟩
    have busy : code ≠ 4 := by omega
    have lampFails := fun lit => lampStep_fails (s := replyEnded r s) (step := step) (data := data) codes lit
    refine ⟨fun lit => ?_, fun asked => ?_, ?_, fun refused => ?_⟩
    · obtain ⟨slot, capture, gauge, fails⟩ := lampFails lit
      exact (come slot).failsActive busy fails capture can fun h => absurd h gauge
    · have fails : stepFailure (replyEnded r s) step (if code = 3 then .refused else .ok) code data =
          some .busFailure := by
        rcases asked with rfl | rfl | rfl <;> rcases codes with rfl | rfl <;> rfl
      refine (come (by rcases asked with rfl | rfl | rfl <;> exact fun n h => nomatch h)).failsActive busy fails
        (by rcases asked with rfl | rfl | rfl <;> rfl) can fun _ one => ?_
      omega
    · rintro x y rfl rfl
      exact (come (fun n h => nomatch h)).failsActive busy rfl rfl can fun h => nomatch h
    · have left : lamp ∨ ring → (replyCame bytes s).plate =
          (stopCapture (stepAnswered step .refused 3 data (replyEnded r s))).plate := fun lit => by
        subst refused
        obtain ⟨slot, capture, -, fails⟩ := lampFails lit
        obtain ⟨_, -, -, -, -, -, left⟩ := failActive_canFail (code := .lampFault)
          (stepAnswered_canFail (step := step) (outcome := .refused) (code := 3) (reply := data)
            (s := replyEnded r s) can)
        exact (congrArg State.plate ((come slot).fails busy fails capture)).trans left
      refine ⟨_, rfl, fun lit => ?_, fun lit => ?_⟩
      · refine (congrArg Plate.panel (left (.inl lit))).trans ?_
        rcases lit with ⟨_, _, rfl⟩ | rfl | rfl <;> rfl
      · refine (congrArg Plate.ring (left (.inr lit))).trans ?_
        rcases lit with ⟨_, rfl⟩ | rfl | rfl <;> rfl

end Sys2Proof.Machine
end

section
/-! PROOFS. Telegrams and notices of other stations, the clear pulse and the trim (R160 to R167, R190, R15, R16). -/

namespace Sys2Proof.Machine

/-! ## Telegrams of other stations (R160) -/

/-- Settles O29. -/
theorem telegramsOfOtherStations : Obligations.TelegramsOfOtherStations := by
  refine ⟨fun s => ⟨fun line => .of_settle rfl (if_pos line), fun line => .of_settle rfl (if_neg line)⟩,
    fun s bytes can whole => ?_⟩
  obtain ⟨first, rest, rfl⟩ := List.exists_cons_of_ne_nil whole
  have read : telegramCame (first :: rest) s =
      if !telegramGood (first :: rest) then lineIdle s
      else if telegramTarget (first :: rest) ≠ 0 then lineIdle (wellReceived s)
      else
        match noticeDelivery (first :: rest) with
        | some deliver => receiveNotice deliver s
        | none => replyOnLine replyRefused (wellReceived s) := by
    unfold telegramCame
    rw [if_neg (by simp), can]
    rfl
  refine ⟨fun bad => .of_settle rfl ?_, fun good target => .of_settle rfl ?_,
    fun good target notice => .of_settle rfl ?_⟩ <;> rw [read]
  · rw [if_pos (by simp [telegramGood, bad])]
    rfl
  · rw [if_neg (by simp [good]), if_pos target]
    rfl
  · rw [if_neg (by simp [good]), if_neg (not_not.2 target), notice]
    rfl

/-! ## Notices (R161, R190) -/

theorem receiveNotice_eq {s : State} (deliver : State → State) (can : canReceive s.bus = true) :
    receiveNotice deliver s = deliver (acceptNotice s) := if_pos can

/-- A notice is recorded with settings accepted and no zero group still to be accepted (R190). -/
theorem recordNotice_recorded {s : State} {w : Settings} (module : Nat) (notice : Byte) (data : List Byte)
    (settings : s.port.settings = some w) (fresh : s.port.freshMark = false) :
    recordNotice module notice data s =
      { s with port := { s.port with
          noticeCount := s.port.noticeCount + 1
          controlRequests := s.port.controlRequests ++
            [⟨.write (noticeGroup module notice.toNat data (activeTag s)), w.anchor + 284, .noticeRecord, true⟩,
              ⟨.write (leBytes 4 (s.port.noticeCount + 1).toNat), w.anchor + 276, .noticeCount, false⟩] } } := by
  have place : ∀ offset, anchorField s offset = w.anchor + offset := fun offset => by
    unfold anchorField
    rw [settings]
  unfold recordNotice
  rw [if_pos (by simp [settings, fresh]), place, place]
  rfl

theorem recordNotice_unrecorded {s : State} (module : Nat) (notice : Byte) (data : List Byte)
    (h : s.port.settings = none ∨ s.port.freshMark = true) : recordNotice module notice data s = s :=
  if_neg (by rcases h with h | h <;> simp [h])

/-- Settles O30. -/
theorem attentionNoticesAreRecorded : Obligations.AttentionNoticesAreRecorded := by
  intro s can quiet answered recorded
  have record : ∀ (module : Nat) (notice : Byte) (data : List Byte), recordNotice module notice data (acceptNotice s) =
      { s with bus := answered, port := recorded module notice.toNat data } := by
    intro module notice data
    dsimp only [recorded]
    split
    · next w settings fresh =>
      exact (recordNotice_recorded (s := acceptNotice s) module notice data settings fresh).trans rfl
    · next other =>
      have unrecorded : s.port.settings = none ∨ s.port.freshMark = true := by
        cases settings : s.port.settings with
        | none => exact .inl rfl
        | some w => exact .inr (Bool.of_not_eq_false (other w settings))
      exact (recordNotice_unrecorded (s := acceptNotice s) module notice data unrecorded).trans rfl
  have quietThen : ∀ port, capturing { s with bus := answered, port := port } = false := fun _ => quiet
  refine ⟨fun x y => .of_settle rfl ?_, fun t => .of_settle rfl ?_, ?lids⟩
  · rw [receiveNotice_eq _ can, deliverJammed, record, plateJammed, if_neg (by simp [quietThen])]
    rfl
  · rw [receiveNotice_eq _ can, deliverHot, record, plateHot, if_neg (by simp [quietThen])]
    rfl
  case lids =>
    intro opened
    have lid : exec .lidOpened s = .next (settle (plateLidOpened
        { s with bus := answered, port := recorded addressLid noticeLidOpened.toNat [] })) := by
      rw [← record]
      exact congrArg (fun u => Host.Outcome.next (settle u)) (receiveNotice_eq _ can)
    refine ⟨fun none => .of_settle lid (plateLidOpened_quiet (quietThen _) none), fun a starved => ?_, ?_⟩
    · refine (plateLidOpened_starved
        (s := { s with bus := answered, port := recorded addressLid noticeLidOpened.toNat [] }) starved).imp
        (fun same => .of_settle lid same) fun further => .of_settle lid (further.trans ?_)
      obtain ⟨-, active, -, primary, -⟩ := starved
      have code : recordCode .lidOpen a =
          { a with secondary := if a.secondary = .none then .lidOpen else a.secondary } := by
        unfold recordCode
        rw [if_neg (by simp [primary])]
        split <;> rfl
      simp only [modActive, modWalker, modPlate, active, Option.map_some, code]
      rfl
    · refine .of_settle rfl ?_
      rw [receiveNotice_eq _ can, deliverLidClosed, record]
      rfl

/-- Settles O31. -/
theorem arrivedEndsTheMove : Obligations.ArrivedEndsTheMove := by
  intro s x y can answered
  refine ⟨fun o b left m rest phase timer order body members waiting => .of_settle rfl ?_,
    fun moving shutdown => .of_settle rfl ?_⟩ <;> rw [receiveNotice_eq _ can]
  · obtain ⟨number, tag, _, motion, frame, recheck, exposure⟩ := o
    cases body
    unfold plateArrived
    rw [if_pos (by simp [acceptNotice, replyOnLine, putOnLine, wellReceived, modBus, phase, timer])]
    have first : memberOfPhase .waiting
        (modPlate (fun p => { p with phase := .exposing, motionTimer := none })
          (modPlate (fun p => { p with movingMark := false }) (acceptNotice s))) = some 0 := by
      show s.plate.members.findIdx? _ = some 0
      rw [members, List.findIdx?_cons, if_pos (by simpa using waiting)]
    unfold moveEnded nextMember
    simp only [modPlate, modMember, acceptNotice, replyOnLine, putOnLine, wellReceived, modBus, order, members]
      at first ⊢
    rw [first]
    rfl
  · unfold plateArrived
    rw [if_neg (by simp [acceptNotice, replyOnLine, putOnLine, wellReceived, modBus, moving]),
      if_neg (by simp [acceptNotice, replyOnLine, putOnLine, wellReceived, modBus, shutdown])]
    rfl

/-! ## The clear pulse and the trim (R163 to R167) -/

/-- Settles O32. -/
theorem clearPulseEndsDarkAndIdle : Obligations.ClearPulseEndsDarkAndIdle := by
  intro s clearing quiet start own aborting rate degraded idle
  refine .of_settle rfl ?_
  have released : releaseLine s = lineIdle s := if_neg (by simp [own])
  have cleared : plateCleared s.bus.clearOwn (releaseLine s) = modPlate (fun p =>
      { p with lid := .unknown, panel := .dark, ring := .dark, movingMark := false, fallbackMark := false })
        (lineIdle s) := by
    rw [released, own]
    unfold plateCleared
    rw [show capturing (lineIdle s) = false from quiet, if_neg (by decide), Bool.false_and, Bool.false_and,
      Bool.false_and, if_neg (by decide)]
  have stays : ∀ t : State, t.port = s.port → settleAborting t = t := fun t same =>
    if_neg (by simp [same, aborting])
  unfold pulseOver
  rw [if_pos clearing]
  unfold endClear
  dsimp only
  rw [cleared, if_neg (by rw [start]; nofun : ¬s.bus.start = some .pulse)]
  have rated : ∀ t : State, t.bus.trimValid = s.bus.trimValid →
      rateAfterPulse t = if s.bus.trimValid then askRateQuick t else t := fun t same => by rw [rateAfterPulse, same]
  generalize made : modBus _ (modPlate _ (lineIdle s)) = done
  rw [rated done (by rw [← made]; rfl)]
  by_cases trim : s.bus.trimValid = true
  · rw [if_pos trim, if_pos trim, stays (askRateQuick done) (by rw [← made]; rfl), ite_self, ← made]
    exact handRate_same (by exact rate) (by exact degraded)
  · rw [if_neg trim, if_neg trim, stays done (by rw [← made]; rfl), ite_self, ← made]
    exact handRate_same (by exact rate) (by exact degraded)

/-- Settles O33. -/
theorem trimPulsesDecideTheRate : Obligations.TrimPulsesDecideTheRate := by
  intro s delay out measured
  have pulse : trimPulse delay s =
      if s.bus.trimDelays.length + 1 = 8 then decideTrim { s with bus := measured }
      else { s with bus := measured } := by
    unfold trimPulse
    rw [if_pos out]
    unfold trimMeasured
    dsimp only
    rw [show ∀ b, (modBus b s).bus = b s.bus from fun _ => rfl]
    dsimp only
    rw [List.length_append]
    rfl
  have last : s.bus.trimDelays.length = 7 → trimPulse delay s = decideTrim { s with bus := measured } := fun seven => by
    rw [pulse, if_pos (by rw [seven])]
  have short : (measured.trimDelays.all fun d => d ≤ Config.trimDelayLimit) = true ↔
      (∀ d ∈ s.bus.trimDelays, d ≤ 250) ∧ delay ≤ 250 := by
    rw [List.all_append, Bool.and_eq_true, List.all_eq_true, List.all_cons, List.all_nil, Bool.and_true]
    exact and_congr (forall₂_congr fun _ _ => decide_eq_true_iff) decide_eq_true_iff
  refine ⟨fun less => .of_settle rfl ?_, fun seven before now => .of_settle rfl ?_,
    fun seven long => ⟨_, rfl, ?_⟩⟩
  · rw [pulse, if_neg (by omega)]
  · rw [last seven]
    exact (if_pos (short.2 ⟨before, now⟩)).trans rfl
  · have degrades : decideTrim { s with bus := measured } = busPartDone (degrade { s with bus := measured }) := by
      refine if_neg fun all => ?_
      obtain ⟨before, now⟩ := short.1 all
      rcases long with ⟨d, hd, longer⟩ | longer
      · exact absurd (before d hd) (Nat.not_le.2 longer)
      · exact absurd now (Nat.not_le.2 longer)
    rw [last seven, degrades]
    exact ⟨rfl, rfl, rfl, rfl⟩

end Sys2Proof.Machine
end

section
/-! PROOFS. What fails the ACTIVE order, and its SHUTDOWN (R15 to R20, R110, R197 to R201). -/

namespace Sys2Proof.Machine

/-! ## Failures of the ACTIVE order -/

theorem recordNotice_parts (module : Nat) (notice : Byte) (data : List Byte) (s : State) :
    ∃ port, recordNotice module notice data s = { s with port := port } := by
  unfold recordNotice
  split <;> exact ⟨_, rfl⟩

/-- A notice recorded and then failing the order does so with the counts as they stood (R15, R190). -/
theorem FailsActive.of_notice {c : Instr} {s : State} {module : Nat} {notice : Byte} {data : List Byte}
    {code : ResultCode} {f : Plate → Plate} (can : CanFail s)
    (e : exec c s = .next (settle (failActive code (modPlate f (recordNotice module notice data (acceptNotice s))))))
    (phase : (f s.plate).phase = s.plate.phase) (retakes : (f s.plate).retakes = s.plate.retakes)
    (late : (f s.plate).lateEvents = s.plate.lateEvents) (thickness : (f s.plate).thickness = s.plate.thickness) :
    FailsActive c s code := by
  obtain ⟨port, recorded⟩ := recordNotice_parts module notice data (acceptNotice s)
  rw [recorded] at e
  exact .of_failActive e ⟨fun shutdown => can.1 (phase.symm.trans shutdown), can.2⟩ retakes late thickness

theorem capturing_recordNotice (module : Nat) (notice : Byte) (data : List Byte) (s : State) :
    capturing (recordNotice module notice data (acceptNotice s)) = capturing s := by
  obtain ⟨port, recorded⟩ := recordNotice_parts module notice data (acceptNotice s)
  rw [recorded]
  rfl

/-- Settles O34. -/
theorem eventsFailTheActiveOrder : Obligations.EventsFailTheActiveOrder := by
  refine ⟨fun s can => ⟨fun left timer => ?_, fun place m left member timer => ?_, fun place m left member timer => ?_,
    fun left timer => ?_⟩, fun s can capture fail => ⟨fun x y => ?_, fun t => ?_, fun interlock => ?_⟩⟩
  · have fails : motionExpired s = failActive .motionTimeout (modPlate (fun p => { p with motionTimer := none }) s) :=
      if_pos (by simp [timer])
    exact .of_failActive (congrArg (fun u => Host.Outcome.next (settle u)) fails) can rfl rfl rfl
  · have fails : exposureExpired place s =
        failActive .cameraTimeout (modMember place (fun m => { m with exposureTimer := none }) s) :=
      if_pos (by simp [exposureRuns, member, timer])
    exact .of_failActive (congrArg (fun u => Host.Outcome.next (settle u)) fails) can rfl rfl rfl
  · have fails : frameExpired place s =
        failActive .cameraTimeout (modMember place (fun m => { m with frameTimer := none }) s) :=
      if_pos (by simp [frameRuns, member, timer])
    exact .of_failActive (congrArg (fun u => Host.Outcome.next (settle u)) fails) can rfl rfl rfl
  · have fails : dryExpired s = failActive .outputStarved (modWriter (fun w => { w with dryTimer := none }) s) :=
      if_pos (by simp [timer])
    exact .of_failActive (congrArg (fun u => Host.Outcome.next (settle u)) fails) can rfl rfl rfl
  · refine .of_notice (f := id) (module := addressTransport) (notice := noticeJammed) (data := positionBytes x y) fail
      ?_ rfl rfl rfl rfl
    refine congrArg (fun u => Host.Outcome.next (settle u)) ?_
    exact (receiveNotice_eq _ can).trans (if_pos ((capturing_recordNotice ..).trans capture))
  · refine .of_notice (f := id) (module := addressPanel) (notice := noticeHot) (data := beBytes 2 t.toNat) fail ?_
      rfl rfl rfl rfl
    refine congrArg (fun u => Host.Outcome.next (settle u)) ?_
    exact (receiveNotice_eq _ can).trans (if_pos ((capturing_recordNotice ..).trans capture))
  · refine .of_notice (f := lidOpen) (module := addressLid) (notice := noticeLidOpened) (data := []) fail ?_
      rfl rfl rfl rfl
    refine congrArg (fun u => Host.Outcome.next (settle u)) ?_
    refine (receiveNotice_eq _ can).trans (if_pos ?_)
    have phase : (recordNotice addressLid noticeLidOpened [] (acceptNotice s)).plate.phase = s.plate.phase := by
      obtain ⟨port, recorded⟩ := recordNotice_parts addressLid noticeLidOpened [] (acceptNotice s)
      rw [recorded]
      rfl
    simp [capturing_recordNotice, capture, phase, interlock]

/-! ## The end of SHUTDOWN (R198 to R200) -/

theorem plateAdvance_shutdown {s : State} {o : PlateOrder} (phase : s.plate.phase = .shutdown)
    (order : s.plate.order = some o) (awaiting : s.plate.awaiting = none) : plateAdvance s = shutdownAdvance s := by
  unfold plateAdvance
  rw [if_neg (by simp [order, awaiting]), phase]

theorem standQuiet_iff (p : Plate) : standQuiet p = true ↔
    p.movingMark = false ∧ p.fallbackMark = false ∧ p.panel = .dark ∧ p.ring = .dark := by
  simp [standQuiet, and_assoc]

/-- The counts handed over with the capture's end (R142, R118). -/
theorem reportCapture_eq (interrupted : Option Nat) (s : State) : reportCapture interrupted s =
    { s with
      walker := { s.walker with active := s.walker.active.map fun a =>
        { a with
          retakes := s.plate.retakes, lateEvents := s.plate.lateEvents, thickness := s.plate.thickness.getD 0
          captureEnded := true } }
      writer := if s.writer.params.isSome then { s.writer with captureEnded := true, interrupted := interrupted }
        else s.writer } := rfl

theorem plateService_of_service {s : State} {o : PlateOrder} {b : ServiceBody} (order : s.plate.order = some o)
    (body : o.body = .service b) : plateService s = true := by
  obtain ⟨number, tag, _, motion, frame, recheck, exposure⟩ := o
  cases body
  unfold plateService
  rw [order]

theorem plateService_of_other {s : State} {o : PlateOrder} (order : s.plate.order = some o)
    (body : ∀ b, o.body ≠ .service b) : plateService s = false := by
  obtain ⟨number, tag, body', motion, frame, recheck, exposure⟩ := o
  unfold plateService
  rw [order]
  cases body' with
  | service b => exact absurd rfl (body b)
  | plate b => rfl
  | reference b => rfl

/-- A telegram that finds a place in the queue (R157). -/
theorem sendStep_of_room {s : State} {step : PlateStep} {priority target : Nat} {command : Byte} {data : List Byte}
    (telegram : stepTelegram s step = some (priority, target, command, data)) (room : queueHasRoom s = true) :
    sendStep step s =
      { s with
        plate := { s.plate with awaiting := some step }
        bus := { s.bus with
          queue := queueInsert (newRequest s.bus.nextRequest .plate priority target command data) s.bus.queue
          nextRequest := s.bus.nextRequest + 1 } } := by
  unfold sendStep
  rw [telegram]
  exact if_pos room

/-! ## The answers to SHUTDOWN's telegrams (R197, R199) -/

/-- An attempt that ends its request (R155). -/
theorem attemptEnds_final {s : State} {r : BusRequest} {outcome : BusOutcome} (code : Nat) (reply : List Byte)
    (found : findRequest r.number s.bus = some r) (run : corruptRunFull outcome s.bus.corruptRun = false)
    (final : outcomeFinal outcome r = true) :
    attemptEnds r.number outcome code reply s =
      reportResult (countOutcome outcome r) outcome code reply
        { s with
          bus := removeRequest r.number
            { s.bus with attempt := none, corruptRun := corruptAfter outcome s.bus.corruptRun } } := by
  unfold attemptEnds
  dsimp only
  rw [run, found]
  dsimp only
  rw [final]
  rfl

theorem plateResult_shutdown {step : PlateStep} {outcome : BusOutcome} {code : Nat} {reply : List Byte} {s : State}
    (awaiting : s.plate.awaiting = some step) (slot : ∀ n, step ≠ .service n)
    (passes : stepFailure s step outcome code reply = none) (phase : s.plate.phase = .shutdown) :
    plateResult outcome code reply s = stepAnswered step outcome code reply s := by
  unfold plateResult
  rw [awaiting]
  dsimp only
  split
  · exact absurd rfl (slot _)
  · rw [passes]
    exact if_pos phase

/-- A failed telegram of SHUTDOWN: a further failure, and the fallback asked for (R199, R201). -/
theorem plateResult_further {step : PlateStep} {outcome : BusOutcome} {code : Nat} {reply : List Byte} {s : State}
    {failure : ResultCode} {a : ActiveOrder} (awaiting : s.plate.awaiting = some step) (shut : shutdownStep step = true)
    (fails : stepFailure s step outcome code reply = some failure) (fallback : wantsFallback step outcome code = true)
    (phase : s.plate.phase = .shutdown) (active : s.walker.active = some a) (ending : a.ending = false) :
    ∃ b, (plateResult outcome code reply s).plate.phase = .shutdown ∧
      (plateResult outcome code reply s).plate.awaiting = none ∧
      (plateResult outcome code reply s).plate.fallbackMark = true ∧
      (plateResult outcome code reply s).walker.active = some b ∧
      b.primary = (if a.primary = .none then failure else a.primary) ∧
      b.secondary = (if a.primary ≠ .none ∧ a.secondary = .none then failure else a.secondary) := by
  have result : plateResult outcome code reply s = modPlate (fun p => { p with fallbackMark := true })
      (failActive failure (stepAnswered step outcome code reply s)) := by
    unfold plateResult
    rw [awaiting]
    dsimp only
    split
    · exact absurd shut (by simp [shutdownStep])
    · rw [fails]
      exact if_pos fallback
  obtain ⟨_, _, _, _, _, _, answered⟩ := stepAnswered_eq step outcome code reply s
  have thickness : ∀ p, keepThickness step outcome code reply p = p := fun p =>
    if_neg fun gauge => by
      simp only [Bool.and_eq_true, decide_eq_true_eq] at gauge
      rw [gauge.1.1] at shut
      exact absurd shut (by decide)
  rw [thickness] at answered
  obtain ⟨_, _, _, _, _, _, further⟩ := failActive_further (code := failure)
    (s := stepAnswered step outcome code reply s) (a := a) (by rw [answered]; exact active) ending
    (by rw [answered]; exact phase)
  obtain ⟨primary, secondary⟩ := recordCode_codes failure (stepAnswered step outcome code reply s).plate a
  rw [result, further]
  refine ⟨_, ?_, ?_, rfl, rfl, primary, secondary⟩ <;> simp only [modPlate] <;> rw [answered]
  exact phase

theorem handRate_parts (s : State) : ∃ port, handRate s = { s with port := port } := by
  unfold handRate
  split
  · exact ⟨_, rfl⟩
  · dsimp only
    split <;> exact ⟨_, rfl⟩

/-- The stand state as the end of a clear pulse leaves it (R4, R197). -/
def clearedStand (p : Plate) : Plate :=
  { p with lid := .unknown, panel := .dark, ring := .dark, movingMark := false, fallbackMark := false }

section
variable {s : State} {r : BusRequest}

/-- A BUSY answer beyond the fifth is the outcome of the Plate Controller's telegram (R155). -/
theorem replyCame_busyFinal {bytes data : List Byte} (line : s.bus.line = .receiving)
    (attempt : s.bus.attempt = some r.number) (found : findRequest r.number s.bus = some r)
    (plate : r.requester = .plate) (reply : readReply r.command bytes = some (4, data)) (busy : 5 ≤ r.busy) :
    replyCame bytes s = plateResult .busy 4 data (replyEnded r s) := by
  have final : outcomeFinal .busy r = true := decide_eq_true busy
  have requester : (countOutcome .busy r).requester = .plate := by
    unfold countOutcome
    dsimp only
    split <;> exact plate
  unfold replyCame
  rw [awaitingReply_eq line attempt, Option.bind_some, found]
  dsimp only
  rw [reply]
  refine (attemptEnds_final (s := lineIdle s) (outcome := .busy) 4 data found rfl final).trans ?_
  unfold reportResult
  rw [requester]
  rfl

/-- Silence after the third attempt is the outcome of the Plate Controller's telegram (R156). -/
theorem slotSilent_final (line : s.bus.line = .receiving) (attempt : s.bus.attempt = some r.number)
    (found : findRequest r.number s.bus = some r) (plate : r.requester = .plate) (spoiled : r.spoiled = 2) :
    slotSilent s = plateResult .noReply 0 [] (replyEnded r s) := by
  have final : outcomeFinal .noReply r = true := decide_eq_true (by rw [spoiled]; decide)
  unfold slotSilent
  rw [awaitingReply_eq line attempt]
  refine (attemptEnds_final (s := lineIdle s) (outcome := .noReply) 0 [] found rfl final).trans ?_
  unfold reportResult
  rw [show (countOutcome .noReply r).requester = .plate from plate]
  rfl

/-- The clear pulse of the Plate Controller's own SHUTDOWN has ended: its order fails with BUS_FAILURE (R4, R164,
R197). -/
theorem plateCleared_fails (own : s.bus.clearOwn = true) (phase : s.plate.phase = .shutdown)
    (service : plateService s = false) (unreported : s.plate.shutdownReported = false) :
    plateCleared s.bus.clearOwn (releaseLine s) = failActive .busFailure (modPlate clearedStand (releaseLine s)) := by
  obtain ⟨_, _, released⟩ := releaseLine_parts s
  unfold plateCleared
  rw [own, released]
  dsimp only
  rw [if_neg (by simp [capturing, phase])]
  have same : ∀ b, plateService { s with bus := b } = false := fun _ => service
  exact if_pos (by simp [phase, unreported, same])

theorem pulseOver_fails (clearing : s.bus.line = .clearing) (own : s.bus.clearOwn = true) (start : s.bus.start = none)
    (aborting : s.port.runState ≠ .aborting) (phase : s.plate.phase = .shutdown) (service : plateService s = false)
    (unreported : s.plate.shutdownReported = false) :
    ∃ b port, pulseOver s =
      { (failActive .busFailure (modPlate clearedStand (releaseLine s))) with bus := b, port := port } := by
  obtain ⟨_, _, released⟩ := releaseLine_parts s
  unfold pulseOver
  rw [if_pos clearing]
  unfold endClear
  dsimp only
  rw [plateCleared_fails own phase service unreported, if_neg (by rw [start]; nofun : ¬s.bus.start = some .pulse)]
  have leaves := failActive_leaves .busFailure (modPlate clearedStand (releaseLine s))
  generalize made : modBus _ (failActive _ _) = done
  obtain ⟨_, _, rated⟩ := rateAfterPulse_parts done
  have stays : settleAborting (rateAfterPulse done) = rateAfterPulse done := by
    refine if_neg ?_
    have runs : done.port.runState = s.port.runState := by
      rw [← made]
      exact leaves.runState.trans (by rw [released]; rfl)
    rw [rated]
    simp [runs, aborting]
  rw [stays, ite_self]
  obtain ⟨port, handed⟩ := handRate_parts (rateAfterPulse done)
  exact ⟨_, port, by rw [handed, rated, ← made]; rfl⟩

end

/-- Settles O35. -/
theorem shutdownDarkensAndReports : Obligations.ShutdownDarkensAndReports := by
  refine ⟨?reports, ?answers, ?fallback, ?pulse⟩
  case reports =>
    intro s o phase order quiet reports sends
    refine ⟨?_, fun awaiting unreported => ⟨fun b body => ?_, fun body => ⟨fun still => ?_, fun moving held => ?_, ?_⟩⟩⟩
    · rintro (awaiting | reported)
      · exact if_pos (by simp [Option.isSome_iff_ne_none.2 awaiting])
      · by_cases awaiting : s.plate.awaiting = none
        · rw [plateAdvance_shutdown phase order awaiting]
          exact if_pos reported
        · exact if_pos (by simp [Option.isSome_iff_ne_none.2 awaiting])
    · have advanced : plateAdvance s = some (reportService s) := by
        rw [plateAdvance_shutdown phase order awaiting, shutdownAdvance, if_neg (by simp [unreported]),
          if_pos (plateService_of_service order body)]
      refine advanced.trans (congrArg some ?_)
      rw [reportService, reportCapture_eq]
      simp only [modActive, modWalker, modPlate, Option.map_map, Bool.or_true]
      rfl
    · have advanced : plateAdvance s = some (reportShutdown s) := by
        rw [plateAdvance_shutdown phase order awaiting, shutdownAdvance, if_neg (by simp [unreported]),
          if_neg (by simp [plateService_of_other order body]), if_pos ((standQuiet_iff _).2 still)]
      refine advanced.trans (congrArg some ?_)
      rw [reportShutdown, reportCapture_eq]
      simp only [Bool.or_false]
      rfl
    · rw [plateAdvance_shutdown phase order awaiting, shutdownAdvance, if_neg (by simp [unreported]),
        if_neg (by simp [plateService_of_other order body]), if_neg (mt (standQuiet_iff _).1 moving),
        if_pos (by simpa using held)]
    · intro fallback pulse room
      have advanced : ¬quiet → plateAdvance s = some (sendStep (shutdownTelegram s.plate) s) := fun moving => by
        rw [plateAdvance_shutdown phase order awaiting, shutdownAdvance, if_neg (by simp [unreported]),
          if_neg (by simp [plateService_of_other order body]), if_neg (mt (standQuiet_iff _).1 moving),
          if_neg (by simp [fallback, pulse])]
      have sent : ∀ {step : PlateStep} {priority target : Nat} {command : Byte}, ¬quiet →
          shutdownTelegram s.plate = step → stepTelegram s step = some (priority, target, command, []) →
          sends step priority target command := fun moving telegram table =>
        (advanced moving).trans (congrArg some (by rw [telegram]; exact sendStep_of_room table room))
      refine ⟨fun moving => sent (fun q => by simp [q.1] at moving) (if_pos moving) rfl,
        fun still lit => sent (fun q => lit q.2.2.1) ?_ rfl, fun still dark lit => sent (fun q => lit q.2.2.2) ?_ rfl⟩
      · rw [shutdownTelegram, if_neg (by simp [still]), if_pos lit]
      · rw [shutdownTelegram, if_neg (by simp [still]), if_neg (not_not.2 dark)]
  case answers =>
    intro s r a step line attempt found plate awaiting phase active ending lampOff answered further
    refine ⟨fun bytes data reply => ?_, fun bytes code data reply codes => ?_, fun shut => ?silent⟩
    · have come : ∀ {answer : State}, stepAnswered step .ok 1 data (replyEnded r s) = answer →
          (∀ n, step ≠ .service n) → stepFailure (replyEnded r s) step .ok 1 data = none →
          Effects (.replyReceived bytes) s answer := fun e slot passes => .of_settle rfl (by
        rw [replyCame_plate line attempt found plate reply (by decide)]
        exact (plateResult_shutdown (s := replyEnded r s) awaiting slot passes phase).trans e)
      refine ⟨?_, ?_, ?_⟩ <;> rintro rfl <;> exact come rfl (fun n h => nomatch h) rfl
    · have come : ∀ {failure : ResultCode}, shutdownStep step = true →
          stepFailure (replyEnded r s) step (if code = 3 then .refused else .ok) code data = some failure →
          wantsFallback step (if code = 3 then .refused else .ok) code = true →
          further (.replyReceived bytes) failure := fun shut fails fallback => by
        obtain ⟨b, now⟩ := plateResult_further (s := replyEnded r s) awaiting shut fails fallback phase active ending
        refine ⟨_, b, congrArg (fun u => Host.Outcome.next (settle u))
          (replyCame_plate line attempt found plate reply (by omega)), now⟩
      refine ⟨?_, ?_⟩
      · rintro rfl
        rcases codes with rfl | rfl <;> exact come rfl rfl rfl
      · rintro (rfl | rfl) <;> rcases codes with rfl | rfl <;> exact come rfl rfl rfl
    case silent =>
    have capture : shutdownStep step = true := by rcases shut with rfl | rfl | rfl <;> rfl
    refine ⟨fun bytes data reply busy => ?_, fun spoiled => ?_⟩
    · have result := replyCame_busyFinal line attempt found plate reply busy
      obtain ⟨b, now⟩ := plateResult_further (outcome := .busy) (code := 4) (reply := data) (s := replyEnded r s)
        awaiting capture rfl (by simp [wantsFallback, capture, doneNow]) phase active ending
      exact ⟨_, b, congrArg (fun u => Host.Outcome.next (settle u)) result, now⟩
    · have result := slotSilent_final line attempt found plate spoiled
      obtain ⟨b, now⟩ := plateResult_further (outcome := .noReply) (code := 0) (reply := []) (s := replyEnded r s)
        awaiting capture rfl (by simp [wantsFallback, capture, doneNow]) phase active ending
      exact ⟨_, b, congrArg (fun u => Host.Outcome.next (settle u)) result, now⟩
  case fallback =>
    intro s mark
    refine ⟨fun noClear noQueue noRate => ?_, fun requesters pending notAsked => ?_⟩
    · have begun : beginClear .plate s = handRate (takeLine .plate s) := by
        unfold beginClear
        rw [noClear, noRate, noQueue]
        rfl
      obtain ⟨port, handed⟩ := handRate_parts (takeLine .plate s)
      refine ⟨_, if_pos (by simp [mark, noClear]), ?_⟩
      rw [begun, handed]
      exact ⟨rfl, rfl, rfl, rfl⟩
    · refine (if_pos (by simp [mark, pending, notAsked])).trans (congrArg some ?_)
      unfold beginClear
      rw [pending]
      rfl
  case pulse =>
    intro s a clearing own start aborting phase service unreported active ending
    obtain ⟨_, _, released⟩ := releaseLine_parts s
    obtain ⟨_, _, _, _, _, _, further⟩ := failActive_further (code := .busFailure)
      (s := modPlate clearedStand (releaseLine s)) (a := a) (by rw [released]; exact active) ending
      (by rw [released]; exact phase)
    obtain ⟨primary, secondary⟩ := recordCode_codes .busFailure (modPlate clearedStand (releaseLine s)).plate a
    obtain ⟨bus, port, ended⟩ := pulseOver_fails clearing own start aborting phase service unreported
    rw [further] at ended
    have held := congrArg (fun u => u.walker.active) ended
    exact ⟨_, _, rfl, (congrArg State.plate ended).trans (by simp only [modPlate, released, clearedStand]), held,
      primary, secondary⟩

end Sys2Proof.Machine
end

section
/-! PROOFS. The Pixel Link's packets and flow control (R62 to R73). -/

namespace Sys2Proof.Machine

/-! ## Packets of a tag (R62, R64) -/

/-- Settles O36. -/
theorem unlistedPacketsAreNotUsed : Obligations.UnlistedPacketsAreNotUsed := by
  refine ⟨fun s tag unlisted => ⟨fun rest row samples check => .of_settle rfl ?_, .of_settle rfl ?_,
    fun count => .of_settle rfl ?_⟩, fun s => ⟨.of_settle rfl rfl, fun bytes => rfl⟩⟩
  · rw [rowArrived_eq (tag := tag) rfl, tagRowArrived, unlisted]
  · rw [exposedArrived, unlisted]
    rfl
  · rw [frameEndArrived, unlisted]
    rfl

theorem triggerOf_tag {tag : Byte} {s : State} {e : Trigger} (h : triggerOf tag s = some e) : e.tag = tag := by
  simpa using List.find?_some h

/-! ## The next member (R17 to R19) -/

section
variable {s : State} {number motion frame recheck : Nat} {tag : Word32} {exposure : List Nat}

theorem nextMember_reference {b : ReferenceBody}
    (order : s.plate.order = some ⟨number, tag, .reference b, motion, frame, recheck, exposure⟩) :
    nextMember s = s := by
  unfold nextMember
  rw [order]

theorem nextMember_waiting {b : PlateBody} {place : Nat} {m : Member}
    (order : s.plate.order = some ⟨number, tag, .plate b, motion, frame, recheck, exposure⟩)
    (first : memberOfPhase .waiting s = some place) (member : s.plate.members[place]? = some m) :
    nextMember s =
      { s with plate := { s.plate with
          members := s.plate.members.modify place fun m => { m with phase := .lighting }
          plan := memberPlan b place m } } := by
  unfold nextMember
  rw [order]
  dsimp only
  rw [first]
  dsimp only
  rw [member]
  rfl

theorem nextMember_none {b : PlateBody}
    (order : s.plate.order = some ⟨number, tag, .plate b, motion, frame, recheck, exposure⟩)
    (none : memberOfPhase .waiting s = none) :
    nextMember s = { s with plate := { s.plate with plan := [.dark, .ringOff, .lampsOff] } } := by
  unfold nextMember
  rw [order]
  dsimp only
  rw [none]
  rfl

end

theorem memberOfPhase_eq_some {s : State} {phase : MemberPhase} {place : Nat} {m : Member}
    (member : s.plate.members[place]? = some m) (isPhase : m.phase = phase)
    (before : ∀ k, k < place → ∀ q, s.plate.members[k]? = some q → q.phase ≠ phase) :
    memberOfPhase phase s = some place := by
  obtain ⟨inside, at'⟩ := List.getElem?_eq_some_iff.1 member
  refine List.findIdx?_eq_some_iff_getElem.2 ⟨inside, by simpa [at'] using isPhase, fun k hk => ?_⟩
  simpa using before k hk _ (List.getElem?_eq_getElem (hk.trans inside))

theorem memberOfPhase_eq_none {s : State} {phase : MemberPhase} (none : ∀ q ∈ s.plate.members, q.phase ≠ phase) :
    memberOfPhase phase s = Option.none :=
  List.findIdx?_eq_none_iff.2 fun q hq => by simpa using none q hq

/-- The report of EXPOSED of a listed tag (R18, R62). -/
theorem reportExposed_eq {tag : Byte} {s : State} {place : Nat} {o : PlateOrder}
    (member : memberOfTag tag s = some place) (order : s.plate.order = some o) :
    reportExposed tag s = nextMember
      { s with
        intake := { s.intake with
          triggers := s.intake.triggers.map fun t => if t.tag = tag then { t with phase := .streaming } else t }
        plate := { s.plate with
          members := s.plate.members.modify place fun m =>
            { m with phase := .streaming, exposureTimer := none, frameTimer := some o.frame } } } := by
  unfold reportExposed plateExposed
  rw [show memberOfTag tag (modTrigger tag (fun e => { e with phase := .streaming }) s) = some place from member]
  dsimp only
  rw [show (modTrigger tag (fun e => { e with phase := .streaming }) s).plate.order = some o from order]
  rfl

/-- The damage mark on top of EXPOSED (R65, R68). -/
theorem damage_streaming (tag : Byte) (triggers : List Trigger) :
    ((triggers.map fun t => if t.tag = tag then { t with phase := .streaming } else t).map fun t =>
        if t.tag = tag then { t with damaged := true } else t) =
      triggers.map fun t => if t.tag = tag then { t with phase := .streaming, damaged := true } else t := by
  rw [List.map_map]
  refine List.map_congr_left fun t _ => ?_
  by_cases same : t.tag = tag <;> simp [same]

/-- EXPOSED of an entry that awaits it, by the packet itself, by FRAME_END and by a ROW (R62, R65, R68). -/
theorem lostExposed_eq {tag : Byte} {s : State} {e : Trigger} {plate : Plate} (listed : triggerOf tag s = some e)
    (awaits : e.phase = .awaitingExposed)
    (reported : reportExposed tag s =
      { s with
        intake := { s.intake with
          triggers := s.intake.triggers.map fun t => if t.tag = tag then { t with phase := .streaming } else t }
        plate := plate }) :
    lostExposed e s =
      { s with
        intake := { s.intake with
          triggers := s.intake.triggers.map fun t =>
            if t.tag = tag then { t with phase := .streaming, damaged := true } else t }
        plate := plate } := by
  rw [lostExposed, if_pos awaits, triggerOf_tag listed, reported, ← damage_streaming]
  rfl

/-! ## The end of a frame (R20, R21, R68) -/

theorem SlotIn.failActive_frameDamaged {states : List SlotState} {n : Nat} {s : State} (free : .free ∈ states)
    (filling : .filling ∉ states) (h : SlotIn states n s) : SlotIn states n (failActive .frameDamaged s) := by
  unfold failActive
  split
  · exact h
  · split
    · exact h
    · have shut : ∀ f, SlotIn states n (Machine.enterShutdown (modActive f s)) :=
        fun f => SlotIn.enterShutdown (s := modActive f s) free filling ⟨h.1, h.2⟩
      unfold passFailure
      dsimp only
      rw [if_neg (by decide : ¬stoppingCode .frameDamaged = true)]
      split
      · exact SlotIn.cacheEndWork free (shut _)
      · exact shut _

theorem SlotIn.memberDamaged {states : List SlotState} {n place : Nat} {s : State} (free : .free ∈ states)
    (filling : .filling ∉ states) (h : SlotIn states n s) : SlotIn states n (memberDamaged place s) := by
  have ended : ∀ f, SlotIn states n (modMember place f s) := fun f => ⟨h.1, h.2⟩
  unfold Machine.memberDamaged
  dsimp only
  split
  · unfold frameDamaged
    split
    · exact ⟨h.1, h.2⟩
    · exact SlotIn.failActive_frameDamaged free filling (ended _)
  · split
    · exact ended _
    · exact SlotIn.failActive_frameDamaged free filling (ended _)
  · exact ended _

theorem memberFull_slots (place : Nat) (s : State) : (memberFull place s).intake.slots = s.intake.slots := by
  unfold memberFull
  dsimp only
  split
  · unfold frameFull
    dsimp only
    split
    · unfold askSample
      split <;> rfl
    · rfl
  · rfl

theorem frameWhole_iff (e : Trigger) (count : Nat) :
    frameWhole e count = true ↔ e.damaged = false ∧ e.expected = 4096 ∧ count = 4096 := by
  rw [frameWhole, Bool.and_eq_true, Bool.and_eq_true, decide_eq_true_iff, decide_eq_true_iff, Bool.not_eq_true',
    and_assoc]
  rfl

/-- A frame's end leaves its FILLING slot FULL exactly when the frame is whole (R68). -/
theorem slotAt_endFrame {e : Trigger} (count : Nat) {s : State} (inside : e.slot < s.intake.slots.length)
    (filling : (slotAt s e.slot).state = .filling) :
    (slotAt (endFrame e count s) e.slot).state = .full ↔ frameWhole e count = true := by
  unfold endFrame
  dsimp only
  generalize hu : modIntake _ s = unlisted
  have slots : unlisted.intake.slots = s.intake.slots := by rw [← hu]; rfl
  have moved : ∀ target, target ≠ .free → SlotIn [target] e.slot (moveSlot [.filling] target e.slot unlisted) := by
    intro target busy
    have same : slotAt unlisted e.slot = slotAt s e.slot := by rw [slotAt, slotAt, slots]
    refine ⟨by simpa [moveSlot, modSlot, modIntake, slots] using inside, ?_⟩
    unfold moveSlot
    rw [slotAt_modSlot (by rw [slots]; exact inside), if_pos rfl, same, if_pos (by simp [filling]), if_neg busy]
    exact List.mem_singleton.2 rfl
  cases whole : frameWhole e count with
  | true =>
    have full := (moved .full (by decide)).2
    refine iff_of_true ?_ rfl
    rw [if_pos rfl]
    unfold plateFrameEnd
    split
    · exact List.mem_singleton.1 full
    · rw [if_pos rfl, slotAt, memberFull_slots]
      exact List.mem_singleton.1 full
  | false =>
    have damaged : SlotIn [.damaged, .free] e.slot (moveSlot [.filling] .damaged e.slot unlisted) :=
      ⟨(moved .damaged (by decide)).1, by rw [List.mem_singleton.1 (moved .damaged (by decide)).2]; decide⟩
    refine iff_of_false ?_ (by decide)
    rw [if_neg (by decide)]
    have after : SlotIn [.damaged, .free] e.slot
        (plateFrameEnd e.tag false (moveSlot [.filling] .damaged e.slot unlisted)) := by
      unfold plateFrameEnd
      split
      · exact damaged
      · exact SlotIn.memberDamaged (by decide) (by decide) damaged
    intro full
    have := after.2
    rw [full] at this
    exact absurd this (by decide)

/-- Settles O37. -/
theorem exposedAndFrameEndFrameTheRows : Obligations.ExposedAndFrameEndFrameTheRows := by
  refine ⟨fun s tag e place o listedAs member order => ?entry, fun s e count inside filling =>
    (slotAt_endFrame count inside filling).trans (frameWhole_iff e count)⟩
  case entry =>
    intro listed streaming marked effect
    have effects : ∀ plate, e.phase = .awaitingExposed →
        reportExposed tag s = { s with intake := listed false, plate := plate } → effect plate := by
      intro plate awaits reported
      have lost : lostExposed e s = { s with intake := listed true, plate := plate } :=
        lostExposed_eq listedAs awaits reported
      refine ⟨.of_settle rfl ?_, fun count => .of_settle rfl ?_,
        fun first row samples check head whole unended => .of_settle rfl ?_⟩
      · rw [exposedArrived, listedAs]
        exact (if_pos awaits).trans reported
      · rw [frameEndArrived, listedAs]
        dsimp only
        rw [lost]
        rfl
      · have notEnded : frameEnded tag s = false := Bool.eq_false_iff.2 fun h => by
          obtain ⟨count, mem⟩ := (frameEnded_iff tag s).1 h
          exact unended count mem
        rw [rowArrived_eq head, tagRowArrived, listedAs]
        dsimp only
        rw [whole, notEnded, if_neg (by decide), if_pos awaits, lost]
    obtain ⟨number, otag, body, motion, frame, recheck, exposure⟩ := o
    refine ⟨fun awaits => ⟨?_, ?_⟩, fun streams => ⟨.of_settle rfl ?_, fun count => .of_settle rfl ?_⟩⟩
    · rintro b rfl
      exact effects _ awaits ((reportExposed_eq member order).trans (nextMember_reference order))
    · rintro b rfl
      refine ⟨fun next m at' waiting before => ?_, fun none => ?_⟩
      · exact effects _ awaits ((reportExposed_eq member order).trans
          (nextMember_waiting order (memberOfPhase_eq_some at' waiting before) at'))
      · exact effects _ awaits ((reportExposed_eq member order).trans
          (nextMember_none order (memberOfPhase_eq_none none)))
    · rw [exposedArrived, listedAs]
      exact if_neg (by simp [streams])
    · rw [frameEndArrived, listedAs]
      dsimp only
      rw [lostExposed, if_neg (by simp [streams])]
      rfl

end Sys2Proof.Machine
end

section
/-! PROOFS. Rows, flow control and the ack timer (R65 to R73). -/

namespace Sys2Proof.Machine

/-! ## Rows into the FIFO (R65, R69) -/

theorem rowGood_iff (e : Trigger) (tag : Byte) (rest : List Byte) :
    rowGood e (tag :: rest) = true ↔ 2 + rest.length = 7174 ∧
      crc16 (tag :: rest.take 7170) = BitVec.ofNat 16 (leNat (rest.drop 7170)) ∧
      leNat (rest.take 2) = e.expected ∧ leNat (rest.take 2) < 4096 := by
  have whole : packetWhole (tag :: rest) = true ↔ 2 + rest.length = 7174 := by
    rw [packetWhole, decide_eq_true_iff, List.length_cons, show 5 + Config.packedRowBytes = 7173 from rfl]
    omega
  have row : packetRow (tag :: rest) = leNat (rest.take 2) := rfl
  rw [rowGood, Bool.and_eq_true, Bool.and_eq_true, Bool.and_eq_true, decide_eq_true_iff, decide_eq_true_iff,
    decide_eq_true_iff, whole, row, and_assoc, and_assoc]
  refine and_congr_right fun length => ?_
  have check : packetCheck (tag :: rest) = BitVec.ofNat 16 (leNat (rest.drop 7170)) := by
    unfold packetCheck fieldNat
    rw [show ((tag :: rest).drop (3 + Config.packedRowBytes)).take 2 = (rest.drop 7170).take 2 from rfl,
      List.take_of_length_le (by rw [List.length_drop]; omega)]
  rw [check]
  rfl

theorem plateExposed_parts (tag : Byte) (s : State) : ∃ plate, plateExposed tag s = { s with plate := plate } := by
  have next : ∀ t : State, ∃ plate, nextMember t = { t with plate := plate } := by
    intro t
    unfold nextMember
    split
    · split
      · split
        · exact ⟨_, rfl⟩
        · exact ⟨_, rfl⟩
      · exact ⟨_, rfl⟩
    · exact ⟨_, rfl⟩
  unfold plateExposed
  split
  · exact ⟨_, rfl⟩
  · obtain ⟨plate, e⟩ := next (modMember _ _ s)
    exact ⟨plate, by rw [e]; rfl⟩

/-- A good row that finds a place, before the flow protocol looks at the level (R65, R69). -/
theorem placeFifoRow_room {s : State} (tag : Byte) (row : Nat) (samples : List Byte) (room : fifoLevel s < 64) :
    placeFifoRow tag row samples s = flowCheck true
      { s with intake := { s.intake with
          fifo := s.intake.fifo ++ [.row tag row samples]
          triggers := s.intake.triggers.map fun t =>
            if t.tag = tag then { t with expected := t.expected + 1 } else t } } := if_pos room

/-- Settles O38. -/
theorem rowsJoinTheFifo : Obligations.RowsJoinTheFifo := by
  refine ⟨fun s tag first row samples check e listed head => ?packets, rowGood_iff⟩
  intro packet bytes damaged joined asks
  have arrived : ∀ t, tagRowArrived tag bytes s = t → Effects packet s t := fun t h =>
    .of_settle rfl ((rowArrived_eq head s).trans h)
  have unfolded : tagRowArrived tag bytes s =
      if e.damaged || frameEnded tag s then s
      else if e.phase = .awaitingExposed then lostExposed e s
      else if rowGood e bytes then placeFifoRow tag (packetRow bytes) (packetSamples bytes) s
      else damageTrigger tag s := by
    unfold tagRowArrived
    rw [listed]
  refine ⟨fun bad => arrived _ ?_, fun ended => arrived _ ?_, fun open' whole => ⟨fun streams => ?_, fun awaits => ?_⟩⟩
  · rw [unfolded, if_pos (by simp [bad])]
  · rw [unfolded, if_pos (by simp [(frameEnded_iff tag s).2 ended])]
  all_goals have unended : frameEnded tag s = false := Bool.eq_false_iff.2 fun h =>
    Exists.elim ((frameEnded_iff tag s).1 h) open'
  all_goals rw [whole, unended, if_neg (by decide)] at unfolded
  · rw [if_neg (by simp [streams])] at unfolded
    refine ⟨fun bad => arrived _ ?_, fun good => ⟨fun full => arrived _ ?_, fun room => ?_⟩⟩
    · rw [unfolded, bad]
      rfl
    · rw [unfolded, if_pos good, placeFifoRow, if_neg (by rw [full]; decide)]
      rfl
    · have placed := unfolded.trans ((if_pos good).trans (placeFifoRow_room _ _ _ room))
      have level : fifoLevel { s with intake := joined } = fifoLevel s + 1 := by
        unfold fifoLevel
        rw [List.filter_append, List.length_append]
        rfl
      have looked : tagRowArrived tag bytes s =
          { s with
            intake :=
              if s.intake.flow = .flowing ∧ true = true ∧ 48 ≤ fifoLevel { s with intake := joined } then
                { joined with
                  flow := .pauseSent, sends := 1, ackTimer := some 10, sent := s.intake.sent ++ [.pause] }
              else if s.intake.flow = .paused ∧ fifoLevel { s with intake := joined } ≤ 16 then
                { joined with
                  flow := .resumeSent, sends := 1, ackTimer := some 10, sent := s.intake.sent ++ [.resume] }
              else joined } := placed.trans (flowCheck_eq ..)
      rw [level] at looked
      refine ⟨fun flowing high => arrived _ (looked.trans ?_), fun paused low => arrived _ (looked.trans ?_),
        fun flowing paused => arrived _ (looked.trans ?_)⟩
      · rw [if_pos ⟨flowing, rfl, Nat.succ_le_succ high⟩]
      · rw [if_neg (by simp [paused]), if_pos ⟨paused, low⟩]
      · rw [if_neg (fun h => absurd (flowing h.1) (by omega)), if_neg (fun h => absurd (paused h.1) (by omega))]
  · obtain ⟨plate, reported⟩ := plateExposed_parts tag (modTrigger tag (fun e => { e with phase := .streaming }) s)
    exact ⟨plate, arrived _ (unfolded.trans ((if_pos awaits).trans (lostExposed_eq listed awaits reported)))⟩

/-! ## Rows out of the FIFO (R66, R67) -/

/-- Bit `b` of the stream is bit `b mod 8` of byte `b div 8` (R66). -/
theorem streamBits_getElem? {bytes : List Byte} {b : Nat} (h : b < 8 * bytes.length) :
    (streamBits bytes)[b]? = (bytes[b / 8]?).map fun byte => byte.getLsbD (b % 8) := by
  induction bytes generalizing b with
  | nil => exact absurd h (by simp)
  | cons first rest ih =>
    have split : streamBits (first :: rest) = (List.range 8).map first.getLsbD ++ streamBits rest := rfl
    have eight : ((List.range 8).map first.getLsbD).length = 8 := by simp
    rw [split]
    by_cases low : b < 8
    · rw [List.getElem?_append_left (by omega), Nat.div_eq_of_lt low, Nat.mod_eq_of_lt low, List.getElem?_map,
        List.getElem?_range low]
      rfl
    · obtain ⟨c, rfl⟩ : ∃ c, b = c + 8 := ⟨b - 8, by omega⟩
      rw [List.length_cons] at h
      rw [List.getElem?_append_right (by omega), eight, Nat.add_sub_cancel, ih (by omega),
        Nat.add_div_right _ (by decide),
        Nat.add_mod_right]
      rfl

theorem unpackBits_length (n : Nat) (bits : List Bool) : (unpackBits n bits).length = n := by
  induction n generalizing bits with
  | zero => rfl
  | succ n ih => rw [unpackBits, List.length_cons, ih]

/-- Sample `i` is the number of bits 14 × i to 14 × i + 13 (R66). -/
theorem unpackBits_getElem? {n i : Nat} (bits : List Bool) (h : i < n) :
    (unpackBits n bits)[i]? = some (bitsNat ((bits.drop (14 * i)).take 14)) := by
  induction n generalizing i bits with
  | zero => exact absurd h (Nat.not_lt_zero i)
  | succ n ih =>
    rw [unpackBits]
    cases i with
    | zero => rfl
    | succ i => rw [List.getElem?_cons_succ, ih _ (Nat.lt_of_succ_lt_succ h), List.drop_drop, Nat.mul_succ,
        Nat.add_comm]

/-- The two bytes of value `i`, least significant first (R66). -/
theorem bytes16_getElem? {values : List Nat} {i v : Nat} (h : values[i]? = some v) :
    (bytes16 values)[2 * i]? = some (BitVec.ofNat 8 v) ∧
      (bytes16 values)[2 * i + 1]? = some (BitVec.ofNat 8 (v / 256)) := by
  obtain ⟨low, high⟩ := flatMap_pair_getElem? (leBytes 2)
    (fun v => BitVec.ofNat 8 v) (fun v => BitVec.ofNat 8 (v / 256))
    (fun _ => rfl) values i
  rw [h] at low high
  exact ⟨low, high⟩

theorem bytes16_length (values : List Nat) : (bytes16 values).length = 2 * values.length :=
  flatMap_pair_length (leBytes 2) (fun _ => rfl) values

/-- The level has fallen: RESUME in PAUSED at 16 or less, nothing else (R70). -/
theorem flowCheck_fall (s : State) : flowCheck false s =
    { s with
      intake :=
        if s.intake.flow = .paused ∧ fifoLevel s ≤ 16 then
          { s.intake with
            flow := .resumeSent, sends := 1, ackTimer := some 10, sent := s.intake.sent ++ [.resume] }
        else s.intake } := by
  rw [flowCheck_eq, if_neg fun h => absurd h.2.1 Bool.false_ne_true]

/-- The head row leaves the FIFO and the flow protocol looks at the level (R67, R70). -/
theorem fifoRowDone_eq {s : State} {tag : Byte} {row : Nat} {samples : List Byte} {rest : List FifoItem}
    (fifo : s.intake.fifo = .row tag row samples :: rest) :
    fifoRowDone s =
      { s with
        frame := (writeFifoRow tag row samples s).frame
        intake :=
          if s.intake.flow = .paused ∧ (rest.filter isRow).length ≤ 16 then
            { s.intake with
              fifo := rest, flow := .resumeSent, sends := 1, ackTimer := some 10, sent := s.intake.sent ++ [.resume] }
          else { s.intake with fifo := rest } } := by
  have written : writeFifoRow tag row samples s = { s with frame := (writeFifoRow tag row samples s).frame } := by
    unfold writeFifoRow
    split
    · rfl
    · split <;> rfl
  unfold fifoRowDone
  rw [fifo]
  dsimp only
  rw [flowCheck_fall, written]
  rfl

/-- Settles O39. -/
theorem fifoRowLandsUnpacked : Obligations.FifoRowLandsUnpacked := by
  refine ⟨fun s tag row samples rest e fifo listed whole length => ?lands, fun bytes b h => streamBits_getElem? h,
    fun s tag row samples rest fifo dropped => ?dropped⟩
  case lands =>
    refine ⟨_, congrArg (fun u => Host.Outcome.next (settle u)) (fifoRowDone_eq fifo), rfl, ?_⟩
    intro base sample
    have written : (writeFifoRow tag row samples s).frame =
        memoryWrite base (bytes16 (unpackSamples samples)) s.frame := by
      unfold writeFifoRow
      rw [listed]
      exact congrArg State.frame (if_neg (by simp [whole]))
    have count : 8 * samples.length / 14 = 4096 := by rw [length]
    have size : (bytes16 (unpackSamples samples)).length = 8192 := by
      rw [bytes16_length, unpackSamples, unpackBits_length, count]
    clear_value base
    have inside : ∀ k < 8192, memoryRead (writeFifoRow tag row samples s).frame (base + k) =
        (bytes16 (unpackSamples samples))[k]? := fun k hk => by
      rw [written, memoryRead_write_inside _ _ _ (by omega)]
    refine ⟨fun i hi => ?_, fun a outside => ?_⟩
    · have value : (unpackSamples samples)[i]? = some (sample i) := by
        rw [unpackSamples, count]
        exact unpackBits_getElem? _ hi
      obtain ⟨low, high⟩ := bytes16_getElem? value
      refine ⟨(bitsNat_lt _).trans_le (Nat.pow_le_pow_right (n := 2) (by decide) (List.length_take_le 14 _)), ?_, ?_⟩
      · exact (inside (2 * i) (by omega)).trans low
      · rw [Nat.add_assoc]
        exact (inside (2 * i + 1) (by omega)).trans high
    · exact (congrArg (memoryRead · a) written).trans (memoryRead_write_outside _ _ _ (by rw [size]; exact outside))
  case dropped =>
    have same : (writeFifoRow tag row samples s).frame = s.frame := by
      unfold writeFifoRow
      split
      · rfl
      · next e listed => rw [if_pos (dropped e listed)]
    exact ⟨_, congrArg (fun u => Host.Outcome.next (settle u)) (fifoRowDone_eq fifo), rfl,
      fun a => congrArg (memoryRead · a) same⟩

/-! ## Flow requests and their answers (R70 to R72) -/

/-- Settles O40. -/
theorem acksAnswerTheOutstandingRequest : Obligations.AcksAnswerTheOutstandingRequest := by
  intro s flow sentAnew
  have pause : ackArrived 1 s = ackPause s := rfl
  have resume : ackArrived 2 s = ackResume s := rfl
  refine ⟨fun paused => ⟨fun high => .of_settle rfl ?_, fun low => .of_settle rfl ?_⟩,
    fun resumed => ⟨fun low => .of_settle rfl ?_, fun high => .of_settle rfl ?_⟩,
    fun flowing => ⟨fun high => .of_settle rfl ?_, fun low => .of_settle rfl ?_⟩,
    fun which noPause noResume => .of_settle rfl ?_⟩
  · rw [pause, ackPause, paused]
    exact if_neg (Nat.not_le.2 high)
  · rw [pause, ackPause, paused]
    exact if_pos low
  · rw [resume, ackResume, resumed]
    exact if_neg (Nat.not_le.2 low)
  · rw [resume, ackResume, resumed]
    exact if_pos high
  · rw [pause, ackPause, flowing]
    exact if_neg (Nat.not_le.2 high)
  · rw [pause, ackPause, flowing]
    exact if_pos low
  · unfold ackArrived
    split
    · next one =>
      have other : ¬(s.intake.flow = .pauseSent ∨ s.intake.flow = .flowing) := fun h => noPause ⟨one, h⟩
      unfold ackPause
      split
      · next h => exact absurd (.inl h) other
      · next h => exact absurd (.inr h) other
      · rfl
    · split
      · next two =>
        unfold ackResume
        split
        · next h => exact absurd ⟨two, h⟩ noResume
        · rfl
      · rfl

/-- Settles O41. -/
theorem ackTimerResendsOrStalls : Obligations.AckTimerResendsOrStalls := by
  intro s left timer
  have due : ackTimeout s = ackExpired s := if_pos (by simp [timer])
  have stalls : 3 ≤ s.intake.sends → ackTimeout s = stallLink s := fun sent =>
    due.trans (if_neg (Nat.not_lt.2 sent))
  refine ⟨fun again flow => .of_settle rfl ?_, fun sent quiet => .of_settle rfl ?_, fun sent capture can => ?_⟩
  · rw [due, ackExpired, if_pos (show s.intake.sends < Config.maxSends from again)]
    rcases flow with flow | flow <;> rw [flow] <;> rfl
  · rw [stalls sent, stallLink]
    exact if_neg (by simp [quiet])
  · have fails : ackTimeout s =
        failActive .cameraTimeout (modIntake (fun i => { i with flow := .flowing, ackTimer := none }) s) :=
      (stalls sent).trans (if_pos capture)
    exact .of_failActive (congrArg (fun u => Host.Outcome.next (settle u)) fails) can rfl rfl rfl

end Sys2Proof.Machine
end

section
/-! PROOFS. Reservations, triggers, cancels and releases of frame slots (R61, R63, R74, R77). -/

namespace Sys2Proof.Machine

/-! ## Reservations (R74) -/

theorem tileMembers_slots (b : PlateBody) (slots : List Nat) : (tileMembers b slots).map Member.slot = slots := by
  refine List.ext_getElem? fun i => ?_
  by_cases inside : i < slots.length
  · simp [tileMembers, inside]
  · simp [tileMembers, inside]

theorem tileMembers_waiting {b : PlateBody} {slots : List Nat} {m : Member} (h : m ∈ tileMembers b slots) :
    m.phase = .waiting ∧ m.tag = none := by
  obtain ⟨place, -, rfl⟩ := List.mem_map.1 h
  exact ⟨rfl, rfl⟩

theorem slotAt_moveSlot {source : List SlotState} {target : SlotState} {n m : Nat} {s : State}
    (inside : m < s.intake.slots.length) (busy : target ≠ .free) :
    slotAt (moveSlot source target n s) m =
      if m = n ∧ (slotAt s m).state ∈ source then { slotAt s m with state := target, tag := none } else slotAt s m := by
  unfold moveSlot
  rw [slotAt_modSlot inside]
  by_cases same : m = n
  · subst same
    rw [if_pos rfl]
    by_cases from' : (slotAt s m).state ∈ source
    · rw [if_pos from', if_neg busy, if_pos ⟨rfl, from'⟩]
    · rw [if_neg from', if_neg fun h => from' h.2]
  · rw [if_neg same, if_neg fun h => same h.1]

theorem moveSlot_length (source : List SlotState) (target : SlotState) (n : Nat) (s : State) :
    (moveSlot source target n s).intake.slots.length = s.intake.slots.length := by
  simp [moveSlot, modSlot, modIntake]

/-- The grant of a reservation: the lowest-numbered FREE slots, RESERVED, handed to the Plate Controller (R74). -/
theorem grantAdvance_of_enough {s : State} {count : Nat} (pending : s.intake.reservation = some count)
    (enough : count ≤ (freeSlots s).length) :
    grantAdvance s = some (reservationGranted ((freeSlots s).take count)
      (reserveSlots ((freeSlots s).take count) (activeNumber s) (withdrawReservation s))) := by
  unfold grantAdvance
  rw [pending]
  exact if_pos (by rw [List.length_take]; omega)

theorem grantAdvance_of_few {s : State} {count : Nat} (pending : s.intake.reservation = some count)
    (few : (freeSlots s).length < count) : grantAdvance s = none := by
  unfold grantAdvance
  rw [pending]
  exact if_neg (by rw [List.length_take]; omega)

/-- The slots of a REFERENCE order's first grant: two accumulators and the frame slot (R24, R74, R92). -/
theorem slotAt_accumulators {s : State} {low high frame n : Nat} {owner : Option Nat}
    (inside : n < s.intake.slots.length) :
    slotAt (moveSlots [.reserved] .accumulator [low, high] (reserveSlots [low, high, frame] owner s)) n =
      if n = low ∨ n = high then ⟨.accumulator, none, owner⟩
      else if n = frame then ⟨.reserved, none, owner⟩ else slotAt s n := by
  obtain ⟨table, length, same⟩ := reserveSlots_eq [low, high, frame] owner s
  have within : n < (reserveSlots [low, high, frame] owner s).intake.slots.length := by
    rw [same]
    exact length ▸ inside
  rw [moveSlots, List.foldl_cons, List.foldl_cons, List.foldl_nil,
    slotAt_moveSlot (by rw [moveSlot_length]; exact within) (by decide), slotAt_moveSlot within (by decide),
    slotAt_reserveSlots _ _ inside]
  by_cases isLow : n = low
  · simp [isLow]
  · by_cases isHigh : n = high
    · subst isHigh
      simp [isLow]
    · by_cases isFrame : n = frame
      · subst isFrame
        simp [isLow, isHigh]
      · simp [isLow, isHigh, isFrame]

/-! ## Triggers and cancels (R61, R63) -/

theorem triggerable_iff (s : State) (slot : Nat) : triggerable s slot = true ↔
    ((slotAt s slot).state = .reserved ∨ (slotAt s slot).state = .damaged) ∧
      ∃ a, s.walker.active = some a ∧ (slotAt s slot).owner = some a.number := by
  unfold triggerable activeNumber
  rw [Bool.and_eq_true, Bool.and_eq_true, Bool.or_eq_true, decide_eq_true_iff, decide_eq_true_iff, decide_eq_true_iff,
    and_assoc]
  refine and_congr_right fun _ => ?_
  cases s.walker.active with
  | none =>
    cases (slotAt s slot).owner <;> simp
  | some a =>
    cases (slotAt s slot).owner <;> simp

theorem cancelTag_unlisted {tag : Byte} {s : State} (h : triggerOf tag s = none) : cancelTag tag s = s := by
  unfold cancelTag
  rw [show s.intake.triggers.find? _ = none from h]

theorem cancelTag_listed {tag : Byte} {s : State} {e : Trigger} (h : triggerOf tag s = some e) : cancelTag tag s =
    { s with intake := { s.intake with
        triggers := s.intake.triggers.filter fun t => t.tag ≠ tag
        sent := s.intake.sent ++ [.cancel tag]
        slots := s.intake.slots.modify e.slot fun x =>
          if x.state = .filling ∧ x.tag = some tag then { x with state := .damaged, tag := none } else x } } := by
  unfold cancelTag
  rw [show s.intake.triggers.find? _ = some e from h]
  simp only [modSlot, modIntake, Bool.and_eq_true, decide_eq_true_eq]

theorem triggerOf_eq_none_iff {tag : Byte} {s : State} :
    triggerOf tag s = none ↔ ∀ e ∈ s.intake.triggers, e.tag ≠ tag := by
  simp [triggerOf, List.find?_eq_none]

/-! ## Releases (R63, R77) -/

/-- Slot `n` is FILLING under a tag that stands on the list. -/
def FillingUnder (n : Nat) (tag : Byte) (s : State) : Prop :=
  n < s.intake.slots.length ∧ (slotAt s n).state = .filling ∧ (slotAt s n).tag = some tag ∧
    ∃ e, triggerOf tag s = some e

/-- The tag has been cancelled: CANCEL is out, and no entry carries the tag (R63). -/
def Cancelled (tag : Byte) (s : State) : Prop := .cancel tag ∈ s.intake.sent ∧ triggerOf tag s = none

theorem triggerOf_cancelTag {tag other : Byte} {s : State} (ne : other ≠ tag) :
    triggerOf tag (cancelTag other s) = triggerOf tag s := by
  cases listed : triggerOf other s with
  | none => rw [cancelTag_unlisted listed]
  | some e =>
    rw [cancelTag_listed listed, triggerOf, triggerOf, List.find?_filter]
    refine List.find?_congr fun t _ => ?_
    by_cases same : t.tag = tag
    · simp [same, Ne.symm ne]
    · simp [same]

theorem cancelTag_cancelled {tag : Byte} {s : State} {e : Trigger} (listed : triggerOf tag s = some e) :
    Cancelled tag (cancelTag tag s) := by
  rw [cancelTag_listed listed]
  refine ⟨List.mem_append_right _ (List.mem_singleton.2 rfl), triggerOf_eq_none_iff.2 fun t ht => ?_⟩
  simpa using (List.mem_filter.1 ht).2

theorem Cancelled.cancelTag {tag other : Byte} {s : State} (h : Cancelled tag s) :
    Cancelled tag (cancelTag other s) := by
  cases listed : triggerOf other s with
  | none => rwa [cancelTag_unlisted listed]
  | some e =>
    have ne : other ≠ tag := fun same => by simp [← same, listed, Cancelled] at h
    refine ⟨?_, (triggerOf_cancelTag ne).trans h.2⟩
    rw [cancelTag_listed listed]
    exact List.mem_append_left _ h.1

theorem Cancelled.releaseSlot {tag : Byte} {n : Nat} {s : State} (h : Cancelled tag s) :
    Cancelled tag (releaseSlot n s) := by
  have cancelled : Cancelled tag (cancelSlot n s) := by
    unfold cancelSlot
    split
    · exact h.cancelTag
    · exact h
  exact cancelled

theorem FillingUnder.cancelTag {n : Nat} {tag other : Byte} {s : State} (h : FillingUnder n tag s) (ne : other ≠ tag) :
    FillingUnder n tag (cancelTag other s) := by
  obtain ⟨inside, filling, under, e, listed⟩ := h
  cases found : triggerOf other s with
  | none =>
    rw [cancelTag_unlisted found]
    exact ⟨inside, filling, under, e, listed⟩
  | some x =>
    have slot : slotAt (Machine.cancelTag other s) n = slotAt s n := by
      rw [cancelTag_listed found]
      refine (slotAt_modSlot (n := x.slot) (f := fun y =>
        if y.state = .filling ∧ y.tag = some other then { y with state := .damaged, tag := none } else y)
        inside).trans ?_
      split
      · next same =>
        subst same
        exact if_neg fun h => by simp [under, Ne.symm ne] at h
      · rfl
    refine ⟨?_, by rw [slot]; exact filling, by rw [slot]; exact under, e, (triggerOf_cancelTag ne).trans listed⟩
    rw [cancelTag_listed found]
    simpa using inside

/-- The release of a slot cancels its own tag, and leaves another tag's entry and its slot as they are or cancels it
(R77). -/
theorem FillingUnder.releaseSlot {n m : Nat} {tag : Byte} {s : State} (h : FillingUnder n tag s) :
    Cancelled tag (releaseSlot m s) ∨ n ≠ m ∧ FillingUnder n tag (releaseSlot m s) := by
  have cancelled : Cancelled tag (cancelSlot m s) ∨ n ≠ m ∧ FillingUnder n tag (cancelSlot m s) := by
    obtain ⟨inside, filling, under, e, listed⟩ := h
    unfold cancelSlot
    split
    · next other _ carries =>
      by_cases same : other = tag
      · subst same
        exact .inl (cancelTag_cancelled listed)
      · refine .inr ⟨?_, FillingUnder.cancelTag ⟨inside, filling, under, e, listed⟩ same⟩
        rintro rfl
        exact same (Option.some.inj (carries.symm.trans under))
    · next none =>
      refine .inr ⟨?_, inside, filling, under, e, listed⟩
      rintro rfl
      exact none tag filling under
  refine cancelled.imp id fun ⟨ne, inside, filling, under, listed⟩ => ⟨ne, ?_⟩
  have slot : slotAt (Machine.releaseSlot m s) n = slotAt (cancelSlot m s) n := by
    unfold Machine.releaseSlot moveSlot
    rw [slotAt_modSlot inside, if_neg ne]
  exact ⟨by rw [Machine.releaseSlot, moveSlot_length]; exact inside, by rw [slot]; exact filling,
    by rw [slot]; exact under, listed⟩

/-- A release of slots cancels the tag of each that is FILLING (R63, R77). -/
theorem releaseSlots_cancels {slots : List Nat} {n : Nat} {tag : Byte} {s : State} (mem : n ∈ slots)
    (h : FillingUnder n tag s) : Cancelled tag (releaseSlots slots s) := by
  have stays : ∀ (slots : List Nat) (s : State), Cancelled tag s → Cancelled tag (releaseSlots slots s) := by
    intro slots
    induction slots with
    | nil => exact fun _ h => h
    | cons m rest ih => exact fun s h => ih _ h.releaseSlot
  induction slots generalizing s with
  | nil => exact absurd mem List.not_mem_nil
  | cons m rest ih =>
    rcases h.releaseSlot (m := m) with cancelled | ⟨ne, still⟩
    · exact stays rest _ cancelled
    · exact ih ((List.mem_cons.1 mem).resolve_left ne) still

theorem releaseSlots_waitingTrigger (slots : List Nat) (s : State) :
    (releaseSlots slots s).intake.waitingTrigger = s.intake.waitingTrigger := by
  induction slots generalizing s with
  | nil => rfl
  | cons m rest ih =>
    obtain ⟨_, _, _, cancelled⟩ := cancelSlot_parts m s
    refine (ih (releaseSlot m s)).trans ?_
    rw [releaseSlot, cancelled]
    rfl

/-- What a failure that stops no row does to Frame Intake: the entry into SHUTDOWN, then the end of a REFERENCE order's
work (R141, R195, R197). -/
theorem failActive_intake {code : ResultCode} {s : State} (can : CanFail s) (goesOn : stoppingCode code = false) :
    ∃ f : ActiveOrder → ActiveOrder,
      (failActive code s).intake = (enterShutdown (modActive f s)).intake ∨
        (failActive code s).intake = (cacheEndWork (enterShutdown (modActive f s))).intake := by
  obtain ⟨phase, a, active, ending, -⟩ := can
  refine ⟨fun a => handCounts s.plate (recordCode code a), ?_⟩
  unfold failActive
  rw [active]
  dsimp only
  rw [ending, if_neg (by decide), passFailure, goesOn]
  split
  · exact .inr rfl
  · exact .inl rfl

/-- What the entry into SHUTDOWN leaves of the slots it holds (R77, R197). -/
theorem enterShutdown_releases {s : State} (phase : s.plate.phase ≠ .shutdown) :
    (enterShutdown s).intake.reservation = none ∧ (enterShutdown s).intake.waitingTrigger = none ∧
      ∀ n ∈ heldSlots s,
        (SlotIn [.reserved, .filling, .full, .damaged, .free] n s → SlotIn [.free] n (enterShutdown s)) ∧
          ∀ tag, FillingUnder n tag s → Cancelled tag (enterShutdown s) := by
  have entered : enterShutdown s = withdrawReservation (releaseSlots (heldSlots s) (stopCapture s)) := if_neg phase
  rw [entered]
  refine ⟨rfl, releaseSlots_waitingTrigger _ _, fun n held => ⟨fun inside => ?_, fun tag under => ?_⟩⟩
  · exact releaseSlots_frees (s := stopCapture s) held inside
  · exact releaseSlots_cancels (s := stopCapture s) held under

/-- The end of a REFERENCE order's work frees slots, and changes nothing else of Frame Intake (R98). -/
theorem cacheEndWork_releases {s : State} : (cacheEndWork s).intake.reservation = s.intake.reservation ∧
    (cacheEndWork s).intake.waitingTrigger = s.intake.waitingTrigger ∧
      (∀ n, SlotIn [.free] n s → SlotIn [.free] n (cacheEndWork s)) ∧
        ∀ tag, Cancelled tag s → Cancelled tag (cacheEndWork s) := by
  refine ⟨?_, ?_, fun n free => SlotIn.cacheEndWork (by decide) free, fun tag cancelled => ?_⟩ <;>
    obtain ⟨_, _, _, ended⟩ := cacheEndWork_eq s <;> rw [ended]
  exact cancelled

/-- A failure that stops no row ends what the Plate Controller asks of Frame Intake, and releases the slots it holds
(R77, R141, R197). -/
theorem failActive_releases {code : ResultCode} {s : State} (can : CanFail s) (goesOn : stoppingCode code = false) :
    let u := failActive code s
    u.intake.reservation = none ∧ u.intake.waitingTrigger = none ∧
      ∀ n ∈ heldSlots s,
        (SlotIn [.reserved, .filling, .full, .damaged, .free] n s → (slotAt u n).state = .free) ∧
          ∀ tag, FillingUnder n tag s → Cancelled tag u := by
  intro u
  obtain ⟨f, fails⟩ := failActive_intake can goesOn
  obtain ⟨reservation, waiting, slots⟩ := enterShutdown_releases (s := modActive f s) can.1
  obtain ⟨noReservation, noTrigger, freeStays, cancelStays⟩ :=
    cacheEndWork_releases (s := enterShutdown (modActive f s))
  have passed : ∀ t : State, u.intake = t.intake → (∀ n, SlotIn [.free] n t → (slotAt u n).state = .free) ∧
      ∀ tag, Cancelled tag t → Cancelled tag u := fun t same =>
    ⟨fun n free => by rw [slotAt, same]; exact List.mem_singleton.1 free.2,
      fun tag cancelled => by unfold Cancelled triggerOf; rw [same]; exact cancelled⟩
  rcases fails with same | same
  · obtain ⟨free, cancelled⟩ := passed _ same
    exact ⟨(congrArg Intake.reservation same).trans reservation, (congrArg Intake.waitingTrigger same).trans waiting,
      fun n held => ⟨fun inside => free n ((slots n held).1 inside),
        fun tag under => cancelled tag ((slots n held).2 tag under)⟩⟩
  · obtain ⟨free, cancelled⟩ := passed _ same
    exact ⟨(congrArg Intake.reservation same).trans (noReservation.trans reservation),
      (congrArg Intake.waitingTrigger same).trans (noTrigger.trans waiting),
      fun n held => ⟨fun inside => free n (freeStays n ((slots n held).1 inside)),
        fun tag under => cancelled tag (cancelStays tag ((slots n held).2 tag under))⟩⟩

/-- A member record keeps its slot while its timers change. -/
theorem slots_modMember {place : Nat} {f : Member → Member} {s : State} (kept : ∀ m, (f m).slot = m.slot) :
    (modMember place f s).plate.members.map Member.slot = s.plate.members.map Member.slot := by
  refine List.ext_getElem? fun i => ?_
  simp only [modMember, modPlate, List.getElem?_map, List.getElem?_modify]
  cases s.plate.members[i]? with
  | none => rfl
  | some x => by_cases same : place = i <;> simp [same, kept]

theorem reservationGranted_reservation (slots : List Nat) (s : State) :
    (reservationGranted slots s).intake.reservation = s.intake.reservation := by
  unfold reservationGranted
  split
  · rfl
  · split
    · next low high frame =>
      unfold referenceGranted
      obtain ⟨_, moved⟩ := moveSlots_eq [.reserved] .accumulator [low, high] s
      dsimp only
      split <;> rw [moved] <;> rfl
    · rfl
    · rfl
  · rfl

section
variable {s : State} {number motion frame recheck : Nat} {tag : Word32} {exposure : List Nat}

theorem reservationGranted_plate {b : PlateBody} (slots : List Nat)
    (order : s.plate.order = some ⟨number, tag, .plate b, motion, frame, recheck, exposure⟩) :
    reservationGranted slots s = tileGranted b slots s := by
  unfold reservationGranted
  rw [order]

theorem reservationGranted_first {b : ReferenceBody} (low high slot : Nat)
    (order : s.plate.order = some ⟨number, tag, .reference b, motion, frame, recheck, exposure⟩) :
    reservationGranted [low, high, slot] s = referenceGranted b low high slot s := by
  unfold reservationGranted
  rw [order]

theorem reservationGranted_next {b : ReferenceBody} (slot : Nat)
    (order : s.plate.order = some ⟨number, tag, .reference b, motion, frame, recheck, exposure⟩) :
    reservationGranted [slot] s = modPlate (fun p => { p with frameSlot := some slot }) s := by
  unfold reservationGranted
  rw [order]

end

/-- The wait of a REFERENCE order is over (R24). -/
theorem referenceGranted_parts (b : ReferenceBody) (low high frame : Nat) (s : State) :
    (referenceGranted b low high frame s).plate.frameSlot = some frame ∧
      (referenceGranted b low high frame s).plate.recheckTimer = none ∧
      (referenceGranted b low high frame s).cache.work =
        (s.cache.work.map fun w => { w with accumulators := some (low, high) }) ∧
      (referenceGranted b low high frame s).intake = (moveSlots [.reserved] .accumulator [low, high] s).intake := by
  obtain ⟨_, moved⟩ := moveSlots_eq [.reserved] .accumulator [low, high] s
  unfold referenceGranted
  dsimp only
  split <;> exact ⟨rfl, rfl, by rw [moved]; rfl, rfl⟩

/-- Settles O42. -/
theorem slotsAreReservedTriggeredAndReleased : Obligations.SlotsAreReservedTriggeredAndReleased := by
  refine ⟨fun s count o pending order => ?grant, fun s r o waits order => ?trigger, fun s tag => ⟨fun none =>
    cancelTag_unlisted (triggerOf_eq_none_iff.2 none), fun e listed => cancelTag_listed listed⟩,
    fun s place left m member timer can => ?released⟩
  case grant =>
    intro free granted reserved
    refine ⟨fun few => grantAdvance_of_few pending few, fun enough =>
      ⟨reservationGranted granted (reserveSlots granted (activeNumber s) (withdrawReservation s)),
        grantAdvance_of_enough pending enough, ?_⟩⟩
    obtain ⟨number, tag, body, motion, frame, recheck, exposure⟩ := o
    obtain ⟨table, length, same⟩ := reserveSlots_eq granted (activeNumber s) (withdrawReservation s)
    have others : ∀ n < s.intake.slots.length,
        slotAt (reserveSlots granted (activeNumber s) (withdrawReservation s)) n =
          if n ∈ granted then reserved else slotAt s n := fun n inside =>
      slotAt_reserveSlots granted (activeNumber s) (s := withdrawReservation s) inside
    refine ⟨(reservationGranted_reservation _ _).trans (by rw [same]; rfl), ?_, ?_⟩
    · rintro b rfl
      rw [reservationGranted_plate (s := reserveSlots granted (activeNumber s) (withdrawReservation s)) granted
        (by rw [same]; exact order)]
      exact ⟨rfl, rfl, tileMembers_slots b granted, fun m hm => tileMembers_waiting hm, others⟩
    · rintro b rfl
      refine ⟨fun low high frame three => ?_, fun frame one => ?_⟩
      · rw [three] at same ⊢
        rw [reservationGranted_first (s := reserveSlots [low, high, frame] (activeNumber s) (withdrawReservation s))
          low high frame (by rw [same]; exact order)]
        obtain ⟨frameSlot, timer, work, intake⟩ := referenceGranted_parts b low high frame
          (reserveSlots [low, high, frame] (activeNumber s) (withdrawReservation s))
        refine ⟨frameSlot, timer, work.trans (by rw [same]; rfl), fun n inside => ?_⟩
        rw [slotAt, intake]
        exact slotAt_accumulators (s := withdrawReservation s) inside
      · rw [one]
        exact reservationGranted_next (s := reserveSlots [frame] (activeNumber s) (withdrawReservation s)) frame order
  case trigger =>
    intro asked allowed
    have may := triggerable_iff s r.slot
    have advanced : triggerAdvance s =
        if !triggerable s r.slot then some { s with intake := asked }
        else if s.intake.triggers.length < 5 then some (takeTrigger r { s with intake := asked }) else none := by
      unfold triggerAdvance
      rw [waits]
      rfl
    refine ⟨fun refused => ?_, fun allows full => ?_, fun allows room => ?_⟩
    · rw [advanced, Bool.eq_false_iff.2 (mt may.1 refused)]
      rfl
    · rw [advanced, may.2 allows, if_neg (by decide), if_neg (Nat.not_lt.2 full)]
    · obtain ⟨passed, tag, carried, free⟩ := skipTags_free s.intake.nextTag
        (listed := s.intake.triggers.map Trigger.tag) (by rw [List.length_map]; exact room)
      refine ⟨passed, _, tag, fun t ht same => free (List.mem_map.2 ⟨t, ht, same⟩),
        fun j hj => List.mem_map.1 (carried j hj), ?_⟩
      rw [advanced, may.2 allows, if_neg (by decide), if_pos room]
      unfold takeTrigger triggerTaken
      dsimp only
      rw [show ∀ f g p, (sendBack p (modSlot r.slot f (modIntake g { s with intake := asked }))).plate.order = some o
        from fun _ _ _ => order]
      rfl
  case released =>
    have expires : exposureExpired place s =
        failActive .cameraTimeout (modMember place (fun m => { m with exposureTimer := none }) s) :=
      if_pos (by simp [exposureRuns, member, timer])
    refine ⟨_, congrArg (fun u => Host.Outcome.next (settle u)) expires, ?_⟩
    obtain ⟨reservation, waiting, slots⟩ := failActive_releases (code := .cameraTimeout)
      (s := modMember place (fun m => { m with exposureTimer := none }) s) can rfl
    have held : ∀ x ∈ s.plate.members,
        x.slot ∈ heldSlots (modMember place (fun m => { m with exposureTimer := none }) s) := fun x hx => by
      refine List.mem_append_left _ ?_
      rw [slots_modMember (f := fun m => { m with exposureTimer := none }) fun _ => rfl]
      exact List.mem_map_of_mem hx
    refine ⟨reservation, waiting, fun x hx inside => ⟨fun merging accumulator => ?_,
      fun tag e filling carries listed => (slots x.slot (held x hx)).2 tag ⟨inside, filling, carries, e, listed⟩⟩⟩
    refine (slots x.slot (held x hx)).1 ⟨inside, ?_⟩
    show (slotAt s x.slot).state ∈ _
    cases state : (slotAt s x.slot).state <;> simp_all

end Sys2Proof.Machine
end

section
/-! PROOFS. The Merge Engine's rows (R34 to R54). -/

namespace Sys2Proof.Machine

/-! ## A row's values by column -/

theorem rowResults_length (s : State) (p : MergeParams) (t : MergeTile) : (rowResults s p t).length = 4096 := by
  rw [rowResults, decideRow_length, rowValues_length]

/-- The pixels of the four classes, counted (R53). -/
def classSum (st : TileStats) : Nat := st.merged + st.single + st.clippedHigh + st.clippedLow

theorem classSum_countPixel (st : TileStats) (r : PixelResult) : classSum (countPixel st r) = classSum st + 1 := by
  cases cls : r.cls <;> simp only [countPixel, classSum, cls] <;> omega

theorem classSum_countRow (st : TileStats) (results : List PixelResult) (mask : List Bool) :
    classSum (countRow st results mask) = classSum st + results.length := by
  have counted : classSum (results.foldl countPixel st) = classSum st + results.length := by
    induction results generalizing st with
    | nil => rfl
    | cons r rest ih =>
      rw [List.foldl_cons, ih, classSum_countPixel, List.length_cons]
      omega
  exact counted

/-- A member's reading at column `c` (R34, R35). -/
theorem memberRow_after_pixel {s : State} {row slot c x d : Nat} {m : MergeMember}
    (sample : (rowValues s (slotBase slot) row)[c]? = some x)
    (dark : (rowValues s (entryBase m.dark) row)[c]? = some d) :
    ((memberRow s row slot m).after c).pixel = ⟨x, clampReference d, m.dose⟩ := by
  show MemberPixel.mk (((rowValues s (slotBase slot) row).drop c).headD 0)
    (clampReference (((rowValues s (entryBase m.dark) row).drop c).headD 0)) m.dose = _
  rw [headD_drop sample, headD_drop dark]

/-- Position `i` of an output row stands for column `i`, or 4095 − i under mirror (R48). -/
theorem column_lt (mirror : Bool) {i : Nat} (h : i < 4096) : (if mirror then 4095 - i else i) < 4096 := by
  split <;> omega

theorem densityBytes_at {mirror : Bool} {results : List PixelResult} (full : results.length = 4096) :
    (densityBytes mirror results).length = 8192 ∧ ∀ i < 4096, ∀ r, results[if mirror then 4095 - i else i]? = some r →
      (densityBytes mirror results)[2 * i]? = some (BitVec.ofNat 8 (densityWord r)) ∧
        (densityBytes mirror results)[2 * i + 1]? = some (BitVec.ofNat 8 (densityWord r / 256)) := by
  refine ⟨(flatMap_pair_length _ (fun _ => rfl) _).trans (by rw [mirrored_length, full]), fun i hi r found => ?_⟩
  obtain ⟨low, high⟩ := flatMap_pair_getElem? (fun r => leBytes 2 (densityWord r))
    (fun r => BitVec.ofNat 8 (densityWord r)) (fun r => BitVec.ofNat 8 (densityWord r / 256)) (fun _ => rfl)
    (mirrored mirror results) i
  rw [mirrored_getElem? mirror full hi, found] at low high
  exact ⟨low, high⟩

theorem positiveBytes_narrow {mirror : Bool} {width : Nat} {tone : ToneTable} {results : List PixelResult}
    (full : results.length = 4096) (narrow : width = 8) :
    (positiveBytes mirror width tone results).length = 4096 ∧
      ∀ i < 4096, ∀ r, results[if mirror then 4095 - i else i]? = some r →
        (positiveBytes mirror width tone results)[i]? = some (BitVec.ofNat 8 (positive16 tone r.code / 256)) := by
  have single : positiveBytes mirror width tone results =
      (mirrored mirror results).map fun r => BitVec.ofNat 8 (positive16 tone r.code / 256) := by
    rw [positiveBytes, List.map_eq_flatMap]
    simp only [narrow, if_true]
  rw [single]
  refine ⟨by rw [List.length_map, mirrored_length, full], fun i hi r found => ?_⟩
  rw [List.getElem?_map, mirrored_getElem? mirror full hi, found]
  rfl

theorem positiveBytes_wide {mirror : Bool} {width : Nat} {tone : ToneTable} {results : List PixelResult}
    (full : results.length = 4096) (wide : width ≠ 8) :
    (positiveBytes mirror width tone results).length = 8192 ∧
      ∀ i < 4096, ∀ r, results[if mirror then 4095 - i else i]? = some r →
        (positiveBytes mirror width tone results)[2 * i]? = some (BitVec.ofNat 8 (positive16 tone r.code)) ∧
          (positiveBytes mirror width tone results)[2 * i + 1]? =
            some (BitVec.ofNat 8 (positive16 tone r.code / 256)) := by
  have pair : ∀ r : PixelResult,
      (if width = 8 then [BitVec.ofNat 8 (positive16 tone r.code / 256)] else leBytes 2 (positive16 tone r.code)) =
        [BitVec.ofNat 8 (positive16 tone r.code), BitVec.ofNat 8 (positive16 tone r.code / 256)] := fun r => if_neg wide
  refine ⟨(flatMap_pair_length _ (fun r => by rw [pair]; rfl) _).trans (by rw [mirrored_length, full]),
    fun i hi r found => ?_⟩
  obtain ⟨low, high⟩ := flatMap_pair_getElem? _ _ _ pair (mirrored mirror results) i
  rw [mirrored_getElem? mirror full hi, found] at low high
  exact ⟨low, high⟩

theorem maskBytes_at {mirror : Bool} {bits : List Bool} (full : bits.length = 4096) :
    (maskBytes mirror bits).length = 512 ∧ ∀ i < 4096, ∀ v, bits[if mirror then 4095 - i else i]? = some v →
      ((maskBytes mirror bits)[i / 8]?).map (fun b => b.getLsbD (i % 8)) = some v := by
  refine ⟨by rw [maskBytes, packMask_length, full], fun i hi v found => ?_⟩
  unfold maskBytes
  refine packMask_bit (by rw [full]; omega) ?_
  rw [mirrored_getElem? mirror full hi]
  exact found

/-! ## ROW_COMPUTED (R50 to R54) -/

/-- Settles O45. -/
theorem computedRowJoinsTheQueue : Obligations.ComputedRowJoinsTheQueue := by
  refine ⟨fun s p t rest merging params queue before => ?joins, fun s p t wf => ?holds⟩
  case joins =>
    intro results entry stats joined hold
    refine ⟨.of_settle rfl ?_, rfl, rfl, ?_⟩
    · unfold rowComputed
      rw [merging, params, queue]
      dsimp only
      rw [if_neg (by show ¬s.merge.row + 1 = 4096; omega)]
      rfl
    · exact (classSum_countRow _ _ _).trans (by rw [rowResults_length]; rfl)
  case holds =>
    intro byte value sample reference result bank tone low high column entry
    have full : (rowResults s p t).length = 4096 := rowResults_length s p t
    have values : ∀ base, ∀ c < 4096, (rowValues s base s.merge.row)[c]? = some (value base c) := fun base c hc =>
      rowValues_getElem? wf base s.merge.row hc
    have samples : ∀ slot, ∀ c < 4096, (rowValues s (slotBase slot) s.merge.row)[c]? = some (sample slot c) :=
      fun slot => values _
    have references : ∀ e, ∀ c < 4096, ∃ v, (rowValues s (entryBase e) s.merge.row)[c]? = some v ∧
        clampReference v = reference e c := fun e c hc => ⟨_, values _ c hc, rfl⟩
    have decided : ∀ c < 4096, (rowResults s p t)[c]? = some (result c) := by
      intro c hc
      obtain ⟨flat, flatAt, flatIs⟩ := references p.flat c hc
      rw [rowResults, decideRow_getElem? _ _ _ flatAt, flatIs]
      refine congrArg (fun members => some (decidePixel _ _ _ members)) ?_
      rw [List.map_zipWith]
      refine congrArg (fun f => List.zipWith f t.slots p.members) (funext fun slot => funext fun m => ?_)
      obtain ⟨dark, darkAt, darkIs⟩ := references m.dark c hc
      rw [memberRow_after_pixel (samples slot c hc) darkAt, darkIs]
    have tones : ∀ c, tone c = positive16 (bankOf s p.bank).table (result c).code := by
      intro c
      show _ = toneValue bank.table ((result c).code / 4)
      dsimp only [tone]
      cases bank.table <;> rfl
    have columns : ∀ i < 4096, (rowResults s p t)[column i]? = some (result (column i)) := fun i hi =>
      decided _ (column_lt p.mirror hi)
    refine ⟨⟨full, decided⟩, fun off => ?_, fun on => ?_, fun off => ?_, fun on narrow => ?_, fun on wide => ?_,
      fun off => ?_, fun dark threshold slot darkfield darkSlot => ?_⟩
    · exact if_neg (by simp [off])
    · have plane : entry.density = densityBytes p.mirror (rowResults s p t) :=
        if_pos on
      rw [plane]
      exact ⟨(densityBytes_at full).1, fun i hi => (densityBytes_at full).2 i hi _ (columns i hi)⟩
    · exact if_neg (by simp [off])
    · have plane : entry.positive = positiveBytes p.mirror p.width (bankOf s p.bank).table (rowResults s p t) :=
        if_pos on
      rw [plane]
      refine ⟨(positiveBytes_narrow full narrow).1, fun i hi => ?_⟩
      rw [tones]
      exact (positiveBytes_narrow full narrow).2 i hi _ (columns i hi)
    · have plane : entry.positive = positiveBytes p.mirror p.width (bankOf s p.bank).table (rowResults s p t) :=
        if_pos on
      rw [plane]
      refine ⟨(positiveBytes_wide full wide).1, fun i hi => ?_⟩
      rw [tones]
      exact (positiveBytes_wide full wide).2 i hi _ (columns i hi)
    · exact if_neg (by simp [off])
    · intro bit
      have mask : rowMask s p t = maskRow threshold (rowValues s (slotBase slot) s.merge.row)
          (rowValues s (entryBase dark) s.merge.row) := by
        rw [rowMask, darkfield, darkSlot]
      have length : (rowMask s p t).length = 4096 := by
        rw [mask, maskRow, List.length_zipWith, rowValues_length, rowValues_length, Nat.min_self]
      have bits : ∀ c < 4096, (rowMask s p t)[c]? = some (bit c) := by
        intro c hc
        obtain ⟨d, darkAt, darkIs⟩ := references dark c hc
        rw [mask, maskRow, List.getElem?_zipWith, samples slot c hc, darkAt]
        dsimp only
        rw [darkIs]
        rfl
      refine ⟨⟨length, bits⟩, fun on => ?_⟩
      have plane : entry.mask = maskBytes p.mirror (rowMask s p t) := if_pos on
      rw [plane]
      exact ⟨(maskBytes_at length).1, fun i hi => (maskBytes_at length).2 i hi _ (bits _ (column_lt p.mirror hi))⟩

/-- Settles O46. -/
theorem lastRowEndsTheTile : Obligations.LastRowEndsTheTile := by
  intro s p t rest merging params queue last results entry stats
  have ended : rowComputed s = endMerge t stats (placeRow entry s) := by
    unfold rowComputed
    rw [merging, params, queue]
    dsimp only
    exact if_pos (by show s.merge.row + 1 = 4096; omega)
  refine ⟨_, congrArg (fun u => Host.Outcome.next (settle u)) ended, ?_⟩
  unfold endMerge
  dsimp only
  generalize hm : modWriter _ (placeRow entry s) = marked
  obtain ⟨table, moved⟩ := moveSlots_eq [.merging] .free (tileSlots t) marked
  have merge : marked.merge.queue = t :: rest := by rw [← hm]; exact queue
  refine ⟨?_, rfl, last, ?_, rfl, rfl, ?_, fun n mem state inside => ?_⟩
  · rw [moved, ← hm]
    exact List.append_assoc _ _ _
  · rw [moved]
    exact congrArg List.tail merge
  · rw [moved]
    exact congrArg (fun q : List MergeTile => if q.tail.isEmpty then MergePhase.idle else .waiting) merge
  · refine List.mem_singleton.1 (moveSlots_frees (source := [.merging]) (s := marked) mem ⟨?_, ?_⟩).2
    · rw [← hm]; exact inside
    · rw [← hm]
      exact List.mem_cons_of_mem _ (List.mem_singleton.2 state)

end Sys2Proof.Machine
end

section
/-! PROOFS. The Tile Writer's pools, rows and records (R101 to R121). -/

namespace Sys2Proof.Machine

/-! ## Pools and scans (R103 to R109) -/

/-- Base, count and take index of the pool a scan reads (R104, R108). -/
theorem poolOf_eq {s : State} {p : OutputParams} {w : Settings} {own : ReservedPool} {reserved : Bool}
    (params : s.writer.params = some p) (pool : reserved = true → p.reserved = some own)
    (settings : s.port.settings = some w) :
    poolOf s reserved = (if reserved then own.base else w.poolBase, if reserved then own.count else w.poolCount,
      if reserved then own.take else s.writer.commonTake) := by
  have common : (s.port.settings.map Settings.poolBase).getD 0 = w.poolBase ∧
      (s.port.settings.map Settings.poolCount).getD 0 = w.poolCount :=
    ⟨settings_getD settings _, settings_getD settings _⟩
  unfold poolOf
  cases reserved with
  | true =>
    rw [params, Option.bind_some, pool rfl]
    rfl
  | false =>
    rw [common.1, common.2]
    rfl

theorem extentGood_iff {s : State} {w : Settings} (settings : s.port.settings = some w) (address size : Nat) :
    extentGood s address size = true ↔
      address % 65536 = 0 ∧ 1 ≤ size ∧ size ≤ 4096 ∧ w.windowBase ≤ address ∧
        address + size * 65536 ≤ w.windowBase + w.windowSize := by
  unfold extentGood inWindow
  rw [settings]
  dsimp only
  rw [Bool.and_eq_true, Bool.and_eq_true, Bool.and_eq_true, Bool.and_eq_true, decide_eq_true_iff, decide_eq_true_iff,
    decide_eq_true_iff, decide_eq_true_iff, decide_eq_true_iff, and_assoc, and_assoc]
  rfl

theorem anchorField_eq {s : State} {w : Settings} (settings : s.port.settings = some w) (offset : Nat) :
    anchorField s offset = w.anchor + offset := by
  unfold anchorField
  rw [settings]

/-- A tag field of an entry, as it is copied (R105). -/
theorem tagField_toNat (data : List Byte) (offset : Nat) :
    (BitVec.ofNat 32 (fieldNat data offset 4)).toNat = leNat ((data.drop offset).take 4) :=
  (BitVec.toNat_ofNat ..).trans (Nat.mod_eq_of_lt (fieldNat_lt data offset 4))

/-- The three writes of a take (R105). -/
theorem presentTake_eq {s : State} {p : OutputParams} {w : Settings} {own : ReservedPool} {scan : Scan} (plane : Plane)
    (rest : List Plane) (bytes : List Byte) (params : s.writer.params = some p)
    (pool : scan.reserved = true → p.reserved = some own) (settings : s.port.settings = some w) :
    let entry := (if scan.reserved then own.base else w.poolBase) + 16 * scan.index
    let next := if scan.index + 1 = (if scan.reserved then own.count else w.poolCount) then 0 else scan.index + 1
    presentTake plane rest scan p bytes s =
      { s with
        port := { s.port with writerRequests := s.port.writerRequests ++
          [⟨.write (leBytes 8 entry ++ leBytes 8 (fieldNat bytes 8 8) ++ leBytes 2 (fieldNat bytes 2 2) ++
              leBytes 1 (planeCode p.wide plane) ++ leBytes 1 (s.writer.tile.getD 0) ++
              leBytes 4 (leNat ((bytes.drop 4).take 4)) ++ zeroBytes 8),
              p.listArea + 32 * s.writer.nextList, .takeListed, false⟩,
            ⟨.write (leBytes 2 2), entry, .takeMarked, false⟩,
            ⟨.write (leBytes 4 next), if scan.reserved then own.descriptor + 12 else w.anchor + 264, .takeIndexed,
              false⟩] }
        writer := { s.writer with
          phase := .taking
          dryTimer := none
          recheckTimer := none
          task := .taking (plane :: rest)
            ⟨scan.reserved, next, ⟨s.writer.nextList, fieldNat bytes 8 8, fieldNat bytes 2 2, 0⟩, false⟩ } } := by
  obtain ⟨op, reserved, index, left⟩ := scan
  unfold presentTake
  rw [poolOf_eq params pool settings, ← tagField_toNat]
  cases reserved with
  | true =>
    dsimp only
    rw [pool rfl]
    rfl
  | false =>
    dsimp only
    rw [anchorField_eq settings]
    rfl

section
variable {s : State} {p : OutputParams} {w : Settings} {own : ReservedPool}

/-- The next entry of the pool is read (R104). -/
theorem scanOn_next {scan : Scan} (planes : List Plane) (params : s.writer.params = some p)
    (pool : scan.reserved = true → p.reserved = some own) (settings : s.port.settings = some w) (more : scan.left ≠ 0) :
    let next := if scan.index + 1 = (if scan.reserved then own.count else w.poolCount) then 0 else scan.index + 1
    scanOn planes scan s =
      { s with
        nextOp := s.nextOp + 1
        port := { s.port with writerRequests := s.port.writerRequests ++
          [⟨.read 16, (if scan.reserved then own.base else w.poolBase) + 16 * next, .poolEntry s.nextOp, false⟩] }
        writer := { s.writer with
          task := .scanning planes ⟨s.nextOp, scan.reserved, next, scan.left - 1⟩ } } := by
  unfold scanOn
  rw [poolOf_eq params pool settings]
  exact if_neg more

/-- A scan begins at the pool's take index (R104). -/
theorem beginScan_eq {reserved : Bool} (planes : List Plane) (params : s.writer.params = some p)
    (pool : reserved = true → p.reserved = some own) (settings : s.port.settings = some w) :
    beginScan planes reserved s =
      { s with
        nextOp := s.nextOp + 1
        port := { s.port with writerRequests := s.port.writerRequests ++
          [⟨.read 16, (if reserved then own.base else w.poolBase) +
            16 * (if reserved then own.take else s.writer.commonTake), .poolEntry s.nextOp, false⟩] }
        writer := { s.writer with
          task := .scanning planes ⟨s.nextOp, reserved, if reserved then own.take else s.writer.commonTake,
            (if reserved then own.count else w.poolCount) - 1⟩ } } := by
  unfold beginScan
  rw [poolOf_eq params pool settings]
  rfl

/-- The common pool follows the reserved one (R106). -/
theorem scanOn_common {scan : Scan} (planes : List Plane) (params : s.writer.params = some p)
    (pool : scan.reserved = true → p.reserved = some own) (settings : s.port.settings = some w) (turned : scan.left = 0)
    (reserved : scan.reserved = true) :
    scanOn planes scan s =
      { s with
        nextOp := s.nextOp + 1
        port := { s.port with writerRequests := s.port.writerRequests ++
          [⟨.read 16, w.poolBase + 16 * s.writer.commonTake, .poolEntry s.nextOp, false⟩] }
        writer := { s.writer with
          task := .scanning planes ⟨s.nextOp, false, s.writer.commonTake, w.poolCount - 1⟩ } } := by
  unfold scanOn
  rw [poolOf_eq params pool settings]
  dsimp only
  rw [if_pos turned, if_pos reserved]
  exact beginScan_eq (own := own) planes params (fun h => absurd h Bool.false_ne_true) settings

/-- Every pool scanned is dry (R109). -/
theorem scanOn_dry {scan : Scan} (planes : List Plane) (params : s.writer.params = some p)
    (settings : s.port.settings = some w) (turned : scan.left = 0) (common : scan.reserved = false) :
    scanOn planes scan s =
      { s with writer := { s.writer with
          phase := .dry
          dryTimer := some (s.writer.dryTimer.getD w.dry)
          recheckTimer := some w.recheck
          task := .dryWait planes } } := by
  have dry : (s.port.settings.map Settings.dry).getD 0 = w.dry := settings_getD settings _
  have recheck : (s.port.settings.map Settings.recheck).getD 0 = w.recheck := settings_getD settings _
  unfold scanOn
  rw [poolOf_eq (own := ⟨0, 0, 0, 0, false⟩) params (fun h => absurd (common.symm.trans h) Bool.false_ne_true) settings]
  dsimp only
  rw [if_pos turned, common, if_neg Bool.false_ne_true]
  unfold dryPools
  rw [dry, recheck]
  rfl

end

/-- Settles O47. -/
theorem poolScanTakesAFreeEntry : Obligations.PoolScanTakesAFreeEntry := by
  intro s n r data plane rest scan p w own found purpose sent length whole task params pool settings
    state size address good base count takeIndex entry next rejected rejection after
  have read : completeRead n data s = poolEntryRead scan.op data (removeRead n s) := by
    rw [completeRead_eq found sent (whole.trans length.symm), purpose]
    rfl
  have field : fieldNat data 0 2 = state := rfl
  have goodness : extentGood (removeRead n s) (fieldNat data 8 8) (fieldNat data 2 2) = true ↔ good :=
    extentGood_iff (s := removeRead n s) settings _ _
  have poolAt := poolOf_eq (s := removeRead n s) params pool settings
  have entryRead : poolEntryRead scan.op data (removeRead n s) =
      if state ≠ 1 then scanOn (plane :: rest) scan (removeRead n s)
      else if extentGood (removeRead n s) (fieldNat data 8 8) (fieldNat data 2 2) then
        presentTake plane rest scan p data (removeRead n s)
      else scanOn (plane :: rest) scan (rejectEntry entry (removeRead n s)) := by
    unfold poolEntryRead
    rw [show (removeRead n s).writer.task = _ from task, show (removeRead n s).writer.params = _ from params]
    dsimp only
    rw [if_neg (not_not.2 rfl), poolAt]
    rfl
  refine ⟨fun isFree isGood => .of_settle rfl ?_, fun passed => ?_⟩
  · rw [read, entryRead, if_neg (not_not.2 isFree), if_pos (goodness.2 isGood)]
    exact (presentTake_eq (s := removeRead n s) plane rest data params pool settings).trans rfl
  · have passes : poolEntryRead scan.op data (removeRead n s) = scanOn (plane :: rest) scan
        { s with
          port := { s.port with
            reads := s.port.reads.filter fun x => x.number ≠ n
            writerRequests := s.port.writerRequests ++ rejection }
          writer := { s.writer with rejected := rejected } } := by
      rw [entryRead]
      by_cases isFree : state = 1
      · have bad : ¬good := passed.resolve_left (not_not.2 isFree)
        rw [if_neg (not_not.2 isFree), if_neg (mt goodness.1 bad)]
        refine congrArg (scanOn (plane :: rest) scan) ?_
        dsimp only [rejected, rejection]
        rw [if_pos isFree, if_pos isFree, rejectEntry, anchorField_eq (s := removeRead n s) settings]
        rfl
      · rw [if_pos isFree]
        refine congrArg (scanOn (plane :: rest) scan) ?_
        dsimp only [rejected, rejection]
        rw [if_neg isFree, if_neg isFree, List.append_nil,
          show s.writer.rejected + 0 = s.writer.rejected from BitVec.add_zero _]
        rfl
    generalize hp : ({ s with
      port := { s.port with
        reads := s.port.reads.filter fun x => x.number ≠ n
        writerRequests := s.port.writerRequests ++ rejection }
      writer := { s.writer with rejected := rejected } } : State) = passed' at passes
    have params' : passed'.writer.params = some p := by rw [← hp]; exact params
    have settings' : passed'.port.settings = some w := by rw [← hp]; exact settings
    refine ⟨fun more => .of_settle rfl ?_, fun turned reserved => .of_settle rfl ?_,
      fun turned common => .of_settle rfl ?_⟩
    · rw [read, passes, scanOn_next _ params' pool settings' more, ← hp, ← List.append_assoc]
    · rw [read, passes, scanOn_common _ params' pool settings' turned reserved, ← hp, ← List.append_assoc]
    · rw [read, passes, scanOn_dry _ params' settings' turned common, ← hp]

end Sys2Proof.Machine
end

section
/-! PROOFS. The rows and extents of the Tile Writer (R105, R106, R112, R113). -/

namespace Sys2Proof.Machine

theorem planeRecord_modPlane (plane : Plane) (f : PlaneRecord → PlaneRecord) (s : State) :
    planeRecord (modPlane plane f s).writer plane = f (planeRecord s.writer plane) := by cases plane <;> rfl

section
variable (plane : Plane) (f : PlaneRecord → PlaneRecord) (s : State)

theorem popRow_modPlane : modWriter popRow (modPlane plane f s) = modPlane plane f (modWriter popRow s) := by
  cases plane <;> rfl

theorem setTask_modPlane (task : WriterTask) :
    setTask task (modPlane plane f s) = modPlane plane f (setTask task s) := by cases plane <;> rfl

theorem presentWriter_modPlane (requests : List Request) :
    presentWriter requests (modPlane plane f s) = modPlane plane f (presentWriter requests s) := by cases plane <;> rfl

theorem modPlane_modPlane (g : PlaneRecord → PlaneRecord) :
    modPlane plane g (modPlane plane f s) = modPlane plane (fun x => g (f x)) s := by cases plane <;> rfl

end

/-! ## The next step of a row -/

section
variable {s : State} {p : OutputParams} {row : RowEntry} {items : List QueueItem}

theorem writerAdvance_head (params : s.writer.params = some p) (open' : s.writer.phase ≠ .finishing)
    (task : s.writer.task = .none) : writerAdvance s = headAdvance p s := by
  unfold writerAdvance
  rw [params]
  dsimp only
  rw [if_neg open', task]

theorem writerAdvance_plane {plane : Plane} {rest : List Plane} {e : Extent} (params : s.writer.params = some p)
    (open' : s.writer.phase ≠ .finishing) (task : s.writer.task = .row (plane :: rest) false)
    (queue : s.writer.queue = .row row :: items) (current : (planeRecord s.writer plane).current = some e) :
    writerAdvance s = some (presentPlane plane rest e row s) := by
  unfold writerAdvance
  rw [params]
  dsimp only
  rw [if_neg open', task]
  dsimp only
  rw [current, queue]

theorem writerAdvance_take {plane : Plane} {rest : List Plane} (params : s.writer.params = some p)
    (open' : s.writer.phase ≠ .finishing) (task : s.writer.task = .row (plane :: rest) false)
    (none : (planeRecord s.writer plane).current = none) :
    writerAdvance s = some (beginTake plane rest p (modWriter (fun w => { w with phase := .taking }) s)) := by
  unfold writerAdvance
  rw [params]
  dsimp only
  rw [if_neg open', task]
  dsimp only
  rw [none]

/-- The order's reserved pool, where a plane's scan reads it first (R106, R108). -/
def scannedFirst (p : OutputParams) (w : Writer) (plane : Plane) : Option ReservedPool :=
  p.reserved.filter fun r => !r.dry && !(planeRecord w plane).fallback

theorem scansReserved_eq (plane : Plane) (params : s.writer.params = some p) :
    scansReserved s plane = (scannedFirst p s.writer plane).isSome := by
  unfold scansReserved scannedFirst
  rw [params, Option.bind_some]
  cases p.reserved with
  | none => rfl
  | some r =>
    dsimp only
    rw [Option.filter_some]
    cases !r.dry && !(planeRecord s.writer plane).fallback <;> rfl

theorem scannedFirst_reserved {plane : Plane} {own : ReservedPool} (h : scannedFirst p s.writer plane = some own) :
    p.reserved = some own := (Option.filter_eq_some_iff.1 h).1

/-- The scan for a plane begins at the reserved pool, or at the common one (R104, R106). -/
theorem beginTake_scans {plane : Plane} {rest : List Plane} {w : Settings} (params : s.writer.params = some p)
    (settings : s.port.settings = some w) (room : s.writer.nextList < p.capacity) :
    let own := scannedFirst p s.writer plane
    let take := (own.map ReservedPool.take).getD s.writer.commonTake
    beginTake plane rest p s =
      { s with
        nextOp := s.nextOp + 1
        writer := { s.writer with
          task := .scanning (plane :: rest)
            ⟨s.nextOp, own.isSome, take, (own.map ReservedPool.count).getD w.poolCount - 1⟩ }
        port := { s.port with writerRequests := s.port.writerRequests ++
          [⟨.read 16, (own.map ReservedPool.base).getD w.poolBase + 16 * take, .poolEntry s.nextOp, false⟩] } } := by
  unfold beginTake
  rw [if_neg (Nat.not_le.2 room), scansReserved_eq plane params]
  dsimp only
  cases first : scannedFirst p s.writer plane with
  | none =>
    exact beginScan_eq (own := ⟨0, 0, 0, 0, false⟩) _ params (fun h => absurd h Bool.false_ne_true) settings
  | some own => exact beginScan_eq (own := own) _ params (fun _ => scannedFirst_reserved first) settings

end

/-! ## A plane's row accepted (R112, R113) -/

/-- A plane's row accepted: its bytes are used, a full extent is closed, and after the last plane the row leaves (R112,
R113). -/
theorem planeRowAccepted_eq {t : State} {plane : Plane} {rest : List Plane} {p : OutputParams} {row : RowEntry}
    {items : List QueueItem} {e : Extent} {flag : Bool} (task : t.writer.task = .row (plane :: rest) flag)
    (params : t.writer.params = some p) (queue : t.writer.queue = .row row :: items)
    (current : (planeRecord t.writer plane).current = some e) :
    let used := e.used + (planeBytes row plane).length
    planeRowAccepted plane t =
      modPlane plane (fun x =>
          if used = e.size * 65536 then { x with current := none, last := used }
          else { x with current := some { e with used := used } })
        { t with
          port := { t.port with writerRequests := t.port.writerRequests ++
            if used = e.size * 65536 then
              [⟨.write (leBytes 4 used ++ leBytes 1 1), p.listArea + 32 * e.listIndex + 24, .extentClose, false⟩]
            else [] }
          writer := if rest = [] then
              { t.writer with queue := items, hold := t.writer.hold && 16 < queueLevel items, task := .none }
            else { t.writer with task := .row rest false } } := by
  intro used
  have leaves : ∀ u : State, u.writer.queue = t.writer.queue →
      (if rest.isEmpty then modWriter popRow u else setTask (.row rest false) u) =
        { u with
          writer := if rest = [] then
              { u.writer with queue := items, hold := u.writer.hold && 16 < queueLevel items, task := .none }
            else { u.writer with task := .row rest false } } := by
    intro u same
    cases rest with
    | nil =>
      have popped : popRow u.writer =
          { u.writer with queue := items, hold := u.writer.hold && 16 < queueLevel items, task := .none } := by
        unfold popRow
        rw [same, queue]
        rfl
      exact congrArg (fun w => { u with writer := w }) popped
    | cons next others => rfl
  have commutes : ∀ f u, (if rest.isEmpty then modWriter popRow (modPlane plane f u)
      else setTask (.row rest false) (modPlane plane f u)) =
        modPlane plane f (if rest.isEmpty then modWriter popRow u else setTask (.row rest false) u) := by
    intro f u
    rw [popRow_modPlane, setTask_modPlane]
    split <;> rfl
  unfold planeRowAccepted
  rw [task, params, queue, current]
  dsimp only
  by_cases full : used = e.size * 65536
  · have closed : closePlane p plane (modPlane plane (fun r => { r with current := some { e with used := used } }) t) =
        modPlane plane (fun x => { x with current := none, last := used })
          (presentWriter [closeRequest p { e with used := used }] t) := by
      unfold closePlane
      rw [planeRecord_modPlane]
      dsimp only
      rw [modPlane_modPlane, presentWriter_modPlane]
    have taken : (fun x : PlaneRecord => if used = e.size * 65536 then { x with current := none, last := used }
        else { x with current := some { e with used := used } }) = fun x => { x with current := none, last := used } :=
      funext fun x => if_pos full
    rw [taken, if_pos full, if_pos (show used = e.size * Config.extentUnit from full), closed, commutes,
      leaves (presentWriter [closeRequest p { e with used := used }] t) rfl]
    rfl
  · have stays : (fun x : PlaneRecord => if used = e.size * 65536 then { x with current := none, last := used }
        else { x with current := some { e with used := used } }) =
          fun x => { x with current := some { e with used := used } } := funext fun x => if_neg full
    rw [stays, if_neg full, if_neg (show ¬used = e.size * Config.extentUnit from full), commutes, leaves t rfl,
      List.append_nil]

/-- The third write of a take (R105, R106, R108). -/
theorem completeTake_eq {t : State} {plane : Plane} {rest : List Plane} {take : Take} {p : OutputParams}
    (task : t.writer.task = .taking (plane :: rest) take) (params : t.writer.params = some p) :
    completeTake t =
      modPlane plane (fun x =>
          { x with
            current := some take.extent
            fallback := x.fallback || (p.reserved.isSome && !take.reserved)
            first := if x.count = 0 then take.extent.listIndex else x.first
            count := x.count + 1 })
        { t with writer := { t.writer with
            params := if take.reserved then
              some { p with reserved := p.reserved.map fun own => { own with take := take.nextIndex } } else some p
            commonTake := if take.reserved then t.writer.commonTake else take.nextIndex
            nextList := t.writer.nextList + 1
            phase := if t.writer.phase = .discarding then .discarding else .writing
            task := if t.writer.phase = .discarding then .none else .row (plane :: rest) false } } := by
  have moved : moveTakeIndex take t.writer =
      { t.writer with
        params := if take.reserved then
          some { p with reserved := p.reserved.map fun own => { own with take := take.nextIndex } } else some p
        commonTake := if take.reserved then t.writer.commonTake else take.nextIndex } := by
    unfold moveTakeIndex
    cases take.reserved with
    | true => rw [if_pos rfl, params]; rfl
    | false => rw [if_neg (by decide), if_neg (by decide), ← params]; rfl
  unfold completeTake
  rw [task]
  dsimp only
  rw [params, Option.bind_some]
  unfold modWriter
  dsimp only
  rw [moved]
  rfl

/-- Settles O48. -/
theorem rowsFillTheirExtents : Obligations.RowsFillTheirExtents := by
  refine ⟨fun s p row items params open' queue => ?next, fun s q r data plane rest p row items e due purpose task params
    queue current => ?accepted, fun s q r data plane rest take p due purpose task params => ?taken,
    fun w x => ⟨rfl, rfl, rfl⟩⟩
  case next =>
    intro fresh planes
    refine ⟨fun task writing => ?_, fun plane rest task => ⟨fun e current => ?_, fun none => ⟨fun full can => ?_,
      fun w room settings => ?_⟩⟩⟩
    · rw [writerAdvance_head params open' task, headAdvance, queue]
      exact if_neg writing
    · rw [writerAdvance_plane params open' task queue current]
      rfl
    · have canFail : CanFail (modWriter (fun w => { w with phase := .taking }) s) := can
      have fails : beginTake plane rest p (modWriter (fun w => { w with phase := .taking }) s) =
          failActive .resultSpace (modWriter (fun w => { w with phase := .taking }) s) := if_pos full
      obtain ⟨phase, a, active, ending, -⟩ := canFail
      obtain ⟨b, active', primary, -⟩ := failActive_canFail (code := .resultSpace)
        (s := modWriter (fun w => { w with phase := .taking }) s) can
      obtain ⟨writer, -⟩ := failActive_stops (code := .resultSpace)
        (s := modWriter (fun w => { w with phase := .taking }) s) active ending phase rfl
        (by exact fun h => by simp [modWriter, params] at h) (fun h => nomatch h) (fun h => nomatch h)
      exact ⟨_, b, (writerAdvance_take params open' task none).trans (congrArg some fails), active', primary,
        by rw [writer]⟩
    · intro own base count take
      rw [writerAdvance_take params open' task none]
      exact congrArg some
        (beginTake_scans (s := modWriter (fun w => { w with phase := .taking }) s) params settings room)
  case accepted =>
    intro t used full hold
    refine due.effects ?_
    rw [purpose]
    refine (planeRowAccepted_eq (t := t) (by simpa [t] using task) (by simpa [t] using params)
      (by simpa [t] using queue) (by simpa [t] using current)).trans ?_
    rw [show t.writer = s.writer from sentState_writer ..]
  case taken =>
    intro discarding
    refine due.effects ?_
    rw [purpose]
    refine (completeTake_eq (t := sentState s q r data) (by simpa using task) (by simpa using params)).trans ?_
    rw [sentState_writer]
    by_cases phase : s.writer.phase = .discarding
    · simp only [discarding, phase, decide_true]
    · simp only [discarding, phase, decide_false]
      rfl

end Sys2Proof.Machine
end

section
/-! PROOFS. Tile records: publication, failure and the end of an order (R113 to R120). -/

namespace Sys2Proof.Machine

/-! ## Extents closed (R113) -/

/-- A plane's record once its extent is closed (R113, R116). -/
def closedRecord (x : PlaneRecord) : PlaneRecord :=
  { x with current := none, last := (x.current.map Extent.used).getD x.last }

theorem modPlane_const (plane : Plane) (f : PlaneRecord → PlaneRecord) (s : State) :
    modPlane plane f s = modPlane plane (fun _ => f (planeRecord s.writer plane)) s := by cases plane <;> rfl

theorem modPlane_congr {plane : Plane} {f g : PlaneRecord → PlaneRecord} {s : State}
    (h : f (planeRecord s.writer plane) = g (planeRecord s.writer plane)) :
    modPlane plane f s = modPlane plane g s := by
  rw [modPlane_const, h, ← modPlane_const]

theorem closePlane_eq (p : OutputParams) (plane : Plane) (s : State) :
    closePlane p plane s = presentWriter ((planeRecord s.writer plane).current.toList.map (closeRequest p))
      (modPlane plane closedRecord s) := by
  unfold closePlane
  cases current : (planeRecord s.writer plane).current with
  | none =>
    have open' : closedRecord (planeRecord s.writer plane) = id (planeRecord s.writer plane) := by
      unfold closedRecord
      rw [current]
      dsimp only [Option.map_none, Option.getD_none, id]
      rw [← current]
    rw [modPlane_congr open']
    simp only [Option.toList_none, List.map_nil, presentWriter, modPort, List.append_nil]
    cases plane <;> rfl
  | some e =>
    have closed : closedRecord (planeRecord s.writer plane) =
        { planeRecord s.writer plane with current := none, last := e.used } := by
      unfold closedRecord
      rw [current]
      rfl
    rw [modPlane_congr (g := fun r => { r with current := none, last := e.used }) closed]
    rfl

/-- The order produces the plane (R112). -/
def produces (p : OutputParams) : Plane → Bool
  | .density => p.density
  | .positive => p.positive
  | .mask => p.mask

theorem mem_planesProduced (p : OutputParams) (plane : Plane) :
    plane ∈ planesProduced p ↔ produces p plane = true := by
  cases plane <;> simp [planesProduced, produces]

/-- The requests that close the open extents of an order's planes, in writing order (R113, log 59). -/
def closeRequests (p : OutputParams) (w : Writer) : List Request :=
  (planesProduced p).flatMap fun plane => (planeRecord w plane).current.toList.map (closeRequest p)

theorem closePlanes_eq (p : OutputParams) (s : State) :
    closePlanes p s =
      { s with
        writer := { s.writer with
          density := if p.density then closedRecord s.writer.density else s.writer.density
          positive := if p.positive then closedRecord s.writer.positive else s.writer.positive
          mask := if p.mask then closedRecord s.writer.mask else s.writer.mask }
        port := { s.port with writerRequests := s.port.writerRequests ++ closeRequests p s.writer } } := by
  unfold closePlanes closeRequests planesProduced
  cases p.density <;> cases p.positive <;> cases p.mask <;>
    simp [closePlane_eq, presentWriter, modPort, modPlane, modWriter, planeRecord]

/-- A plane's record after the planes are closed (R113). -/
theorem planeRecord_closePlanes (p : OutputParams) (plane : Plane) (s : State) :
    planeRecord (closePlanes p s).writer plane =
      if plane ∉ planesProduced p then planeRecord s.writer plane else closedRecord (planeRecord s.writer plane) := by
  have produced := mem_planesProduced p plane
  rw [closePlanes_eq]
  by_cases mem : plane ∈ planesProduced p
  · rw [if_neg (not_not.2 mem)]
    cases plane <;> exact if_pos (produced.1 mem)
  · rw [if_pos mem]
    cases plane <;> exact if_neg (mt produced.2 mem)

theorem closePlanes_tile (p : OutputParams) (s : State) : (closePlanes p s).writer.tile = s.writer.tile := by
  rw [closePlanes_eq]

/-! ## Publication (R115 to R117) -/

/-- PUBLISHED is accepted (R115, R117). -/
theorem tilePublishedAccepted_eq {t : State} {tile : Nat} {p : OutputParams} {w : Settings} {a : ActiveOrder}
    (task : t.writer.task = .publishing) (params : t.writer.params = some p) (settings : t.port.settings = some w)
    (active : t.walker.active = some a) :
    tilePublishedAccepted tile t =
      { t with
        port := { t.port with walkerRequests := t.port.walkerRequests ++
          [⟨.write (leBytes 4 (t.walker.tilesPublished + 1).toNat), w.anchor + 260, .tilesPublished p.tileEnd, false⟩] }
        walker := { t.walker with
          tilesPublished := t.walker.tilesPublished + 1, active := some { a with published := a.published + 1 } }
        writer := { t.writer with
          queue := t.writer.queue.tail
          finished := t.writer.finished ++ [tile]
          tile := none, density := .clear, positive := .clear, mask := .clear
          task := .none
          phase := if t.writer.queue.tail.isEmpty then .idle else .writing } } := by
  unfold tilePublishedAccepted
  rw [task, params]
  dsimp only
  unfold countPublished
  have place : ∀ g, anchorField (modWriter g t) 260 = w.anchor + 260 := fun _ =>
    anchorField_eq (s := modWriter _ t) settings 260
  rw [place]
  simp only [modActive, modWalker, modWriter, presentWalker, modPort, active, Option.map_some]
  rfl

/-- Settles O49. -/
theorem endMarkPublishesItsTile : Obligations.EndMarkPublishesItsTile := by
  refine ⟨fun s p mark rest params task open' writing queue => ?publishes,
    fun s q r data tile p w a due purpose task params settings active => ?published,
    fun s q r data asked due purpose => due.effects (by rw [purpose]; rfl)⟩
  case publishes =>
    intro planes address
    have advanced : writerAdvance s = some (publishTile mark p s) := by
      rw [writerAdvance_head params open' task, headAdvance, queue]
      exact if_neg writing
    have records : ∀ plane,
        planeRecord (publishTile mark p s).writer plane = planeRecord (closePlanes p s).writer plane :=
      fun plane => by cases plane <;> rfl
    refine ⟨_, recordFields p mark.tile mark.retakes (recordPlanes (closePlanes p s).writer mark.tile).1
      (recordPlanes (closePlanes p s).writer mark.tile).2.1 (recordPlanes (closePlanes p s).writer mark.tile).2.2,
      advanced, rfl, ?_, ?_, ?_, fun plane => ?_, ?_⟩
    · show (closePlanes p s).writer.queue = _
      rw [closePlanes_eq]
    · show (closePlanes p s).walker = _
      rw [closePlanes_eq]
    · show (closePlanes p s).port.writerRequests ++ _ = _
      rw [closePlanes_eq]
      rfl
    · exact (records plane).trans (planeRecord_closePlanes p plane s)
    · intro group place
      have shown : ∀ plane, (if s.writer.tile = some mark.tile then planeRecord (publishTile mark p s).writer plane
          else .clear) =
            if s.writer.tile = some mark.tile then planeRecord (closePlanes p s).writer plane else .clear :=
        fun plane => by
        rw [records]
      dsimp only [group]
      rw [shown, shown, shown]
      unfold recordPlanes
      rw [closePlanes_tile]
      split <;> rfl
  case published =>
    intro t published
    refine due.effects ?_
    rw [purpose]
    refine (tilePublishedAccepted_eq (t := t) (w := w) (a := a) (by simpa [t] using task) (by simpa [t] using params)
      (by simpa [t] using settings) (by simpa [t] using active)).trans ?_
    rw [show t.writer = s.writer from sentState_writer ..,
      show t.walker.tilesPublished = s.walker.tilesPublished from sentState_tilesPublished ..]

/-! ## A stopping failure (R56, R119) -/

/-- What a stopping failure of the ACTIVE order, in the state `s`, leaves of the Tile Writer and the Merge Engine (R56,
R119). -/
def WriterStopped (s u : State) : Prop :=
  u.merge = { s.merge with phase := .idle, queue := [], row := 0, stats := .zero } ∧
  u.writer = { s.writer with
    queue := s.writer.queue ++ s.merge.queue.map fun t => .failureMark ⟨t.tile, t.x, t.y, t.retakes, .zero⟩
    phase := .discarding, dryTimer := none, recheckTimer := none, task := u.writer.task } ∧
  (∀ planes t, s.writer.task = .taking planes t → u.writer.task = if t.listed then s.writer.task else .none) ∧
  (∀ d, s.writer.task = .activating d → u.writer.task = .activating none) ∧
  ((∀ planes t, s.writer.task ≠ .taking planes t) → (∀ d, s.writer.task ≠ .activating d) →
    u.writer.task = .none) ∧
  (u.port.writerRequests = s.port.writerRequests.filter fun r =>
    !discardedPurpose (takeListed s.writer) r.purpose) ∧
  ∀ t ∈ s.merge.queue, ∀ n ∈ t.slots ++ t.darkSlot.toList, n < s.intake.slots.length →
    (slotAt s n).state = .merging ∨ (slotAt s n).state = .full → (slotAt u n).state = .free

theorem discardTask_of_idle {task : WriterTask} (taking : ∀ planes t, task ≠ .taking planes t)
    (activating : ∀ d, task ≠ .activating d) : discardTask task = .none := by
  cases task with
  | taking planes t => exact absurd rfl (taking planes t)
  | activating d => exact absurd rfl (activating d)
  | _ => rfl

/-- The failure may come with the dry timer already cleared (R110, R119). -/
theorem failActive_writerStopped {code : ResultCode} {s : State} {a : ActiveOrder} {dry : Option Nat} {t : State}
    (active : s.walker.active = some a) (ending : a.ending = false) (open' : s.plate.phase ≠ .shutdown)
    (params : s.writer.params ≠ none) (going : s.writer.phase ≠ .discarding) (unfinished : s.writer.phase ≠ .finishing)
    (stopping : stoppingCode code = true) (writer : t.writer = { s.writer with dryTimer := dry })
    (merge : t.merge = s.merge) (intake : t.intake = s.intake) (plate : t.plate = s.plate)
    (same : t.walker.active = s.walker.active) (requests : t.port.writerRequests = s.port.writerRequests) :
    WriterStopped s (failActive code t) := by
  have held : t.walker.active = some a := same.trans active
  obtain ⟨stops, merged, dropped⟩ := failActive_stops (code := code) held ending (plate ▸ open') stopping
    (by rw [writer]; exact params) (by rw [writer]; exact going) (by rw [writer]; exact unfinished)
  have task : (failActive code t).writer.task = discardTask s.writer.task := by rw [stops, writer]
  refine ⟨by rw [merged, merge], ?_, fun planes x taking => ?_, fun d activating => ?_,
    fun taking activating => ?_, ?_, ?_⟩
  · rw [task, stops, writer, merge]
    rfl
  · rw [task, taking]
    rfl
  · rw [task, activating]
    rfl
  · rw [task, discardTask_of_idle taking activating]
  · rw [dropped, requests, writer]
    rfl
  · intro x mem n slot inside state
    have at' : slotAt t n = slotAt s n := by
      unfold slotAt
      rw [intake]
    exact failActive_frees held ending stopping (merge ▸ mem) slot
      ⟨by rw [intake]; exact inside, by rw [at']; simpa using state⟩

/-! ## Discarding and finishing (R119, R120) -/

section
variable {s : State} {p : OutputParams}

theorem discardRows_eq {rows : List RowEntry} {rest : List QueueItem} {w : Writer}
    (queue : w.queue = rows.map QueueItem.row ++ rest) (stops : ∀ item ∈ rest.head?, isRowEntry item = false) :
    discardRows w = { w with queue := rest, hold := w.hold && 16 < queueLevel rest } := by
  have left : w.queue.dropWhile isRowEntry = rest := by
    rw [queue, List.dropWhile_append_of_pos (by simp [isRowEntry])]
    cases rest with
    | nil => rfl
    | cons item items => exact List.dropWhile_cons_of_neg (by simp [stops item rfl])
  unfold discardRows
  rw [left]
  rfl

theorem failTile_eq (mark : TileMark) (p : OutputParams) (task : s.writer.task = .none) :
    let inWriting := s.writer.tile = some mark.tile
    let address := p.recordArea + 128 * mark.tile
    let recorded := fun plane : Plane =>
      if ¬inWriting then .clear else if plane ∉ planesProduced p then planeRecord s.writer plane
        else closedRecord (planeRecord s.writer plane)
    failTile mark p s =
      { s with
        port := { s.port with writerRequests := s.port.writerRequests ++
          (if inWriting then closeRequests p s.writer else []) ++
          [⟨.write (statsBytes .zero), address + 64, .failedRecord, false⟩,
            ⟨.write (recordFields p mark.tile mark.retakes (recorded .density) (recorded .positive) (recorded .mask)),
              address + 4, .failedRecord, false⟩,
            ⟨.write (leBytes 4 3), address, .failedRecord, false⟩] }
        writer := { s.writer with
          queue := s.writer.queue.tail, finished := s.writer.finished ++ [mark.tile], tile := none
          density := .clear, positive := .clear, mask := .clear } } := by
  intro inWriting address recorded
  have failed : ∀ (requests : List Request) (t : State), t.writer.queue = s.writer.queue →
      t.writer.finished = s.writer.finished → modWriter (finishTile mark.tile) (presentWriter requests t) =
        { t with
          port := { t.port with writerRequests := t.port.writerRequests ++ requests }
          writer := { t.writer with
            queue := s.writer.queue.tail, finished := s.writer.finished ++ [mark.tile], tile := none
            density := .clear, positive := .clear, mask := .clear, task := .none } } := by
    intro requests t queue finished
    rw [← queue, ← finished]
    rfl
  unfold failTile
  dsimp only
  by_cases writing : s.writer.tile = some mark.tile
  · have closed : ∀ plane, recorded plane = planeRecord (closePlanes p s).writer plane := fun plane => by
      rw [planeRecord_closePlanes]
      exact if_neg (not_not.2 writing)
    rw [if_pos writing, failed _ (closePlanes p s) (by rw [closePlanes_eq]) (by rw [closePlanes_eq]),
      closed, closed, closed, recordPlanes, closePlanes_tile, if_pos writing, if_pos writing, closePlanes_eq, task]
    rfl
  · have clear : ∀ plane, recorded plane = .clear := fun plane => if_pos writing
    rw [if_neg writing, failed _ s rfl rfl, clear, clear, clear, recordPlanes, if_neg writing, if_neg writing,
      List.append_nil, task]
    rfl

theorem headAdvance_nil (queue : s.writer.queue = []) :
    headAdvance p s = if recordsDone s then some (beginFinish p s) else none := by
  unfold headAdvance
  rw [queue]

theorem recordsDone_iff (queue : s.writer.queue = []) :
    recordsDone s = true ↔ s.writer.captureEnded = true ∧ s.merge.queue = [] ∧ s.writer.density.current = none ∧
      s.writer.positive.current = none ∧ s.writer.mask.current = none := by
  simp [recordsDone, noExtentOpen, queue, and_assoc]

end

/-- Settles O50. -/
theorem stoppingFailuresFinishTheRecords : Obligations.StoppingFailuresFinishTheRecords := by
  refine ⟨fun s a active ending open' params going unfinished => ?stopped,
    fun s p params task open' => ⟨?rows, ?marks, fun queue => ⟨fun undone => ?_, fun done => ?_⟩⟩,
    fun s p params finishing => ⟨fun left => ?_, fun sent => ?_⟩⟩
  case stopped =>
    refine ⟨fun left timer => ?_, fun held taken => ?_⟩
    · refine ⟨_, rfl, ?_⟩
      have expired : dryExpired s = failActive .outputStarved (modWriter (fun w => { w with dryTimer := none }) s) := by
        unfold dryExpired
        rw [timer]
        rfl
      rw [expired]
      exact failActive_writerStopped active ending open' params going unfinished rfl rfl rfl rfl rfl rfl rfl
    · have aborts : writeAbort s = failActive .aborted (walkOff (setRunState .aborting s)) := by
        rw [writeAbort_orders held]
        unfold failHeld failTaken
        rw [endTaken_of_none]
        exact taken
      refine ⟨_, rfl, ?_⟩
      rw [aborts]
      refine ⟨failActive_writerStopped active ending open' params going unfinished rfl rfl rfl rfl rfl rfl rfl, ?_⟩
      obtain ⟨_, _, _, _, _, _, ended, e, -⟩ := failActive_eq (code := .aborted)
        (s := walkOff (setRunState .aborting s)) active ending open'
      rw [e]
      exact ⟨_, rfl, (recordCode_codes .aborted s.plate a).1⟩
  case rows =>
    intro row rows rest discarding queue stops
    rw [writerAdvance_head params open' task, headAdvance, queue]
    dsimp only [List.cons_append]
    rw [if_pos discarding]
    exact congrArg (fun w => some { s with writer := w }) (discardRows_eq (rows := row :: rows) queue stops)
  case marks =>
    intro mark rest queue inWriting address recorded
    have fails : writerAdvance s = some (failTile mark p s) := by
      rw [writerAdvance_head params open' task, headAdvance]
      rcases queue with queue | ⟨discarding, queue⟩
      · rw [queue]
      · rw [queue]
        exact if_pos discarding
    have tail : s.writer.queue.tail = rest := by rcases queue with queue | ⟨-, queue⟩ <;> rw [queue] <;> rfl
    rw [fails, failTile_eq mark p task, tail]
    rfl
  · rw [writerAdvance_head params open' task, headAdvance_nil queue, if_neg (mt (recordsDone_iff queue).1 undone)]
  · rw [writerAdvance_head params open' task, headAdvance_nil queue, if_pos ((recordsDone_iff queue).2 done),
      List.append_assoc]
    rfl
  · unfold writerAdvance
    rw [params]
    dsimp only
    rw [if_pos finishing, if_neg (by simpa using left)]
  · refine ⟨reportFinished s, ?_, rfl, rfl, rfl, rfl, rfl, fun a active => ?_⟩
    · unfold writerAdvance
      rw [params]
      dsimp only
      rw [if_pos finishing, if_pos (by simpa using sent)]
    · simp [reportFinished, modActive, modWalker, modWriter, active]

end Sys2Proof.Machine
end

section
/-! PROOFS. The Reference Cache: resolutions (R79, R83 to R86, R91, R134). -/

namespace Sys2Proof.Machine

/-! ## The roles of an order (R79, R91, R134) -/

/-- What a failure of the TAKEN order leaves with it (R136). -/
theorem failTaken_fails {code : ResultCode} {s : State} {o : TakenOrder} (taken : s.walker.taken = some o)
    (ending : o.ending = false) :
    ∃ e, (failTaken code s).walker.taken = some e ∧ e.primary = code ∧ e.ending = true ∧ e.holds = o.holds ∧
      (failTaken code s).walker.active = s.walker.active ∧ (failTaken code s).cache = s.cache := by
  unfold failTaken
  rw [endTaken_eq taken ending]
  exact ⟨_, rfl, rfl, rfl, rfl, rfl, rfl⟩

theorem setupAdvance_role {s : State} {o : TakenOrder} {body : OrderBody} {role : DirectoryRole}
    {rest : List DirectoryRole} (taken : s.walker.taken = some o) (ending : o.ending = false)
    (reading : o.reading = none) (setup : o.setup = .resolving) (body' : o.body = some body)
    (roles : o.roles = role :: rest) : setupAdvance s = some (nextRole o role s) := by
  unfold setupAdvance
  rw [taken]
  dsimp only
  rw [ending, reading, setup, body', roles]
  rfl

section
variable {s : State} {o : TakenOrder} {role : DirectoryRole} {w : Settings}

theorem nextRole_beyond (settings : s.port.settings = some w) (beyond : w.directoryCount ≤ role.index) :
    nextRole o role s = failTaken .noReference s := by
  unfold nextRole
  rw [settings]
  exact if_pos beyond

theorem nextRole_read {e : DirectoryEntry} (settings : s.port.settings = some w)
    (within : role.index < w.directoryCount) (read : directoryFind o.directory role.index = some e) :
    nextRole o role s = checkRole role e s := by
  unfold nextRole
  rw [settings, read]
  exact if_neg (Nat.not_le.2 within)

theorem nextRole_unread (settings : s.port.settings = some w) (within : role.index < w.directoryCount)
    (unread : directoryFind o.directory role.index = none) :
    nextRole o role s =
      presentCache [readRequest (w.directory + 64 * role.index) 64 (.directoryEntry s.nextOp)]
        (modTaken (fun o => { o with reading := some s.nextOp }) (useOp s)) := by
  unfold nextRole
  rw [settings, unread]
  exact if_neg (Nat.not_le.2 within)

end

/-- A directory entry's image is a good one (R79, R91). -/
theorem imageBad_eq_false_iff (s : State) (image : Nat) :
    imageBad s image = false ↔ image % 4096 = 0 ∧ inWindow s image 33554432 = true := by
  simp [imageBad, Config.imageBytes]

/-! ## Resolution (R83 to R86) -/

section
variable {s : State} {o : TakenOrder} {index : Nat} {rest : List Nat} {e : DirectoryEntry} {w : Settings}

theorem resolveAdvance_eq (taken : s.walker.taken = some o) (ending : o.ending = false) (setup : o.setup = .resolving)
    (roles : o.roles = []) (resolve : o.toResolve = index :: rest) (found : directoryFind o.directory index = some e) :
    resolveAdvance s = resolveIndex index e s := by
  unfold resolveAdvance
  rw [taken]
  dsimp only
  rw [ending, setup, roles, resolve]
  dsimp only
  rw [found]
  rfl

/-- The TAKEN order holds an entry that its resolution has entered in the state `t`, which is `s` but for the numbers
given (R82 to R84, R134). -/
theorem takeHold_entered {t : State} {n : Nat} {x after : CacheEntry} {f : CacheEntry → CacheEntry}
    (taken : s.walker.taken = some o) (resolve : o.toResolve = index :: rest) (settings : s.port.settings = some w)
    (entry : s.cache.entries[n]? = some x) (pinned : after.pinned = x.pinned) (entered : f x = after)
    (same : t = { s with nextOp := t.nextOp }) :
    takeHold index n (applyPin n e.pin (toLruHead n (modEntry n f t))) =
      let refused := e.pin = true ∧ x.pinned = false ∧ 32 ≤ pinnedCount s
      let pinned : Bool := e.pin && !decide refused
      let others := s.cache.lru.filter (· ≠ n)
      let count := s.cache.pinRefused + 1
      { s with
        nextOp := t.nextOp
        walker := { s.walker with taken := some { o with toResolve := rest, holds := o.holds ++ [⟨index, n⟩] } }
        cache := { s.cache with
          entries := s.cache.entries.set n { after with pinned := pinned }
          lru := if e.pin = true ∧ x.pinned = true then s.cache.lru else if pinned then others else n :: others
          pinRefused := if refused then count else s.cache.pinRefused }
        port := { s.port with cacheRequests := s.port.cacheRequests ++
          if refused then [⟨.write (leBytes 4 count.toNat), w.anchor + 272, .cacheWrite, false⟩] else [] } } := by
  rw [same]
  rw [applyPin_entered (s := { s with nextOp := t.nextOp }) entry pinned entered settings]
  unfold takeHold modTaken modWalker
  dsimp only
  rw [taken, Option.map_some, resolve]
  rfl

/-- The READY entry with no hold (R84, R85). -/
def unheldEntry (x : CacheEntry) : Bool := x.state = .ready && x.holds = 0

theorem unheldEntry_iff (x : CacheEntry) : unheldEntry x = true ↔ x.state = .ready ∧ x.holds = 0 := by
  simp [unheldEntry]

theorem resolveIndex_carried {n : Nat} {x : CacheEntry} (carried : carrying s index = some n)
    (entry : s.cache.entries[n]? = some x) :
    resolveIndex index e s =
      if x.generation = e.generation then some (takeHold index n (hitEntry n e s))
      else if unheldEntry x then some (takeHold index n (beginLoad n index e s)) else none := by
  unfold resolveIndex
  rw [carried]
  dsimp only
  rw [entryAt_of_get entry]
  rfl

theorem resolveIndex_absent (absent : carrying s index = none) :
    resolveIndex index e s = (victim s).map fun n => takeHold index n (beginLoad n index e s) := by
  unfold resolveIndex
  rw [absent]
  dsimp only
  cases victim s <;> rfl

theorem find?_nearest {α : Type} {p : α → Bool} {near far : List α} {n : α} (before : ∀ m ∈ near, p m = false)
    (found : p n = true) : (near ++ n :: far).find? p = some n := by
  rw [List.find?_append, List.find?_eq_none.2 (by simpa using before), Option.none_or, List.find?_cons_of_pos found]

theorem victim_eq (s : State) : victim s =
    (s.cache.lru.reverse.find? fun n => (entryAt s n).state = .empty).or
      (s.cache.lru.reverse.find? fun n => unheldEntry (entryAt s n)) := by
  unfold victim
  cases s.cache.lru.reverse.find? fun n => (entryAt s n).state = .empty <;> rfl

/-- The EMPTY entry nearest the tail of the LRU list is the victim (R85). -/
theorem victim_of_empty {near far : List Nat} {n : Nat} (order : s.cache.lru.reverse = near ++ n :: far)
    (empty : (entryAt s n).state = .empty) (before : ∀ m ∈ near, (entryAt s m).state ≠ .empty) :
    victim s = some n := by
  rw [victim_eq, order, find?_nearest (fun m mem => by simpa using before m mem) (by simpa using empty), Option.some_or]

theorem noneEmpty (h : ∀ n ∈ s.cache.lru, (entryAt s n).state ≠ .empty) :
    (s.cache.lru.reverse.find? fun n => (entryAt s n).state = .empty) = none :=
  List.find?_eq_none.2 fun n mem => by simpa using h n (List.mem_reverse.1 mem)

/-- With none EMPTY, the READY entry with no hold nearest the tail is the victim (R85). -/
theorem victim_of_unheld {near far : List Nat} {n : Nat} (order : s.cache.lru.reverse = near ++ n :: far)
    (free : unheldEntry (entryAt s n) = true) (full : ∀ m ∈ s.cache.lru, (entryAt s m).state ≠ .empty)
    (before : ∀ m ∈ near, unheldEntry (entryAt s m) = false) : victim s = some n := by
  rw [victim_eq, noneEmpty full, Option.none_or, order, find?_nearest before free]

theorem victim_eq_none (full : ∀ m ∈ s.cache.lru, (entryAt s m).state ≠ .empty)
    (held : ∀ m ∈ s.cache.lru, unheldEntry (entryAt s m) = false) : victim s = none := by
  rw [victim_eq, noneEmpty full, Option.none_or]
  exact List.find?_eq_none.2 fun n mem => by simpa using held n (List.mem_reverse.1 mem)

end

/-- Settles O51. -/
theorem resolutionsHoldTheirEntries : Obligations.ResolutionsHoldTheirEntries := by
  refine ⟨fun s o body role rest w taken ending reading setup body' roles settings => ?roles,
    fun s index e value other => ?tests,
    fun s o index rest e w taken ending setup roles resolve found settings => ?resolves⟩
  case roles =>
    intro fails
    have advanced := setupAdvance_role taken ending reading setup body' roles
    have refused : nextRole o role s = failTaken .noReference s → fails := fun next => by
      obtain ⟨e, taken', primary, ended, holds, -, cache⟩ := failTaken_fails (code := .noReference) taken ending
      exact ⟨_, e, advanced.trans (congrArg some next), taken', primary, ended, holds, cache⟩
    refine ⟨fun beyond => refused (nextRole_beyond settings beyond), fun within => ?_⟩
    refine ⟨fun unread => ?_, fun e read => ⟨fun bad => refused ?_, fun good => ?_⟩⟩
    · rw [advanced, nextRole_unread settings within unread]
      simp only [presentCache, modTaken, modWalker, modPort, useOp, taken, Option.map_some]
      rfl
    · rw [nextRole_read settings within read]
      exact if_neg (by rw [bad]; exact Bool.false_ne_true)
    · rw [advanced, nextRole_read settings within read, checkRole, if_pos good]
      simp only [modTaken, modWalker, taken, Option.map_some, roles, List.tail_cons]
  case tests =>
    intro good
    have image : (!imageBad s e.image) = true ↔ good := by
      rw [Bool.not_eq_true', imageBad_eq_false_iff]
    simp only [entryPasses, Bool.and_eq_true, decide_eq_true_iff, image, and_assoc, and_self]
  case resolves =>
    intro holding loading unheld
    have advanced := resolveAdvance_eq taken ending setup roles resolve found
    have hit : ∀ n x, s.cache.entries[n]? = some x →
        resolveAdvance s = some (takeHold index n (hitEntry n e s)) →
        holding n x { x with holds := x.holds + 1 } s.nextOp := fun n x entry h =>
      h.trans (congrArg some (takeHold_entered (t := s) taken resolve settings entry rfl rfl rfl))
    have load : ∀ n x, s.cache.entries[n]? = some x →
        resolveAdvance s = some (takeHold index n (beginLoad n index e s)) → loading n x := fun n x entry h =>
      h.trans (congrArg some (takeHold_entered (t := useOp s) taken resolve settings entry rfl rfl rfl))
    refine ⟨fun n x carried entry => ?_, carrying_eq_none_iff s index, fun absent =>
      ⟨fun near n far x order entry => ⟨fun empty before => ?_, fun free full before => ?_⟩, fun waits => ?_⟩⟩
    · have resolved := advanced.trans (resolveIndex_carried carried entry)
      refine ⟨fun same => hit n x entry ?_, fun stale free => load n x entry ?_, fun stale held => ?_⟩
      · rw [resolved, if_pos same]
      · rw [resolved, if_neg stale, if_pos ((unheldEntry_iff x).2 free)]
      · rw [resolved, if_neg stale, if_neg (mt (unheldEntry_iff x).1 held)]
    all_goals rw [resolveIndex_absent absent] at advanced
    · refine load n x entry ?_
      rw [advanced, victim_of_empty order (by rw [entryAt_of_get entry]; exact empty) before]
      rfl
    · refine load n x entry ?_
      rw [advanced, victim_of_unheld order (by rw [entryAt_of_get entry, unheldEntry_iff]; exact free) full
        fun m mem => Bool.eq_false_iff.2 (mt (unheldEntry_iff _).1 (before m mem))]
      rfl
    · rw [advanced, victim_eq_none (fun m mem => (waits m mem).1)
        fun m mem => Bool.eq_false_iff.2 (mt (unheldEntry_iff _).1 (waits m mem).2)]
      rfl

end Sys2Proof.Machine
end

section
/-! PROOFS. The Reference Cache's loads: their landing and their failure (R88, R89). -/

namespace Sys2Proof.Machine

theorem emptyEntry_eq {s : State} {n : Nat} {c : CacheEntry} (entry : s.cache.entries[n]? = some c) :
    emptyEntry n s =
      { s with cache := { s.cache with
          entries := s.cache.entries.set n { c with state := .empty, holds := 0, pinned := false, load := none }
          lru := s.cache.lru.filter (· ≠ n) ++ [n] } } := by
  unfold emptyEntry toLruTail modEntry modCache
  dsimp only
  rw [modify_eq_set entry]

/-- Some of the holds are on the entry. -/
def holdsEntry (n : Nat) (holds : List CacheHold) : Bool := holds.any fun h => h.entry = n

theorem holdsEntry_iff (n : Nat) (holds : List CacheHold) :
    holdsEntry n holds = true ↔ ∃ h ∈ holds, h.entry = n := by
  simp [holdsEntry]

/-- The holds left without those on the entry (R89). -/
def holdsLeft (n : Nat) (holds : List CacheHold) : List CacheHold := holds.filter fun h => h.entry ≠ n

theorem holdsLeft_of_unheld {n : Nat} {holds : List CacheHold} (h : ¬∃ h ∈ holds, h.entry = n) :
    holdsLeft n holds = holds := by
  unfold holdsLeft
  rw [List.filter_eq_self]
  intro hold mem
  simpa using fun same => h ⟨hold, mem, same⟩

theorem not_held_left (n : Nat) (holds : List CacheHold) : ¬∃ h ∈ holdsLeft n holds, h.entry = n := by
  rintro ⟨h, mem, same⟩
  simp [holdsLeft, same] at mem

/-- The state in which the holders of a load that failed are told: the entry EMPTY, their holds on it gone (R89). -/
def loadDropped (n : Nat) (s : State) : State :=
  let emptied := emptyEntry n s
  { emptied with walker := { emptied.walker with
      taken := emptied.walker.taken.map fun o => { o with holds := holdsLeft n o.holds }
      active := emptied.walker.active.map fun a => { a with holds := holdsLeft n a.holds } } }

theorem failLoad_eq (n : Nat) (s : State) :
    failLoad n s =
      let told := if s.walker.active.any fun a => holdsEntry n a.holds then failActive .memoryError (loadDropped n s)
        else loadDropped n s
      if s.walker.taken.any fun o => holdsEntry n o.holds then failTaken .memoryError told else told := rfl

section
variable {s : State} {n : Nat}

theorem any_held_eq_false {α : Type} {holder : Option α} {holds : α → List CacheHold}
    (h : ∀ x, holder = some x → ¬∃ y ∈ holds x, y.entry = n) :
    (holder.any fun x => holdsEntry n (holds x)) = false := by
  cases holder with
  | none => rfl
  | some x => exact Bool.eq_false_iff.2 (mt (holdsEntry_iff n _).1 (h x rfl))

theorem taken_left (h : ∀ o, s.walker.taken = some o → ¬∃ y ∈ o.holds, y.entry = n) :
    (s.walker.taken.map fun o => { o with holds := holdsLeft n o.holds }) = s.walker.taken := by
  cases taken : s.walker.taken with
  | none => rfl
  | some o => rw [Option.map_some, holdsLeft_of_unheld (h o taken)]

theorem active_left (h : ∀ a, s.walker.active = some a → ¬∃ y ∈ a.holds, y.entry = n) :
    (s.walker.active.map fun a => { a with holds := holdsLeft n a.holds }) = s.walker.active := by
  cases active : s.walker.active with
  | none => rfl
  | some a => rw [Option.map_some, holdsLeft_of_unheld (h a active)]

/-- With no holder no order fails (R89). -/
theorem failLoad_unheld (taken : ∀ o, s.walker.taken = some o → ¬∃ y ∈ o.holds, y.entry = n)
    (active : ∀ a, s.walker.active = some a → ¬∃ y ∈ a.holds, y.entry = n) :
    failLoad n s = emptyEntry n s := by
  rw [failLoad_eq]
  dsimp only
  rw [any_held_eq_false active, any_held_eq_false taken]
  have held : (loadDropped n s).walker = s.walker := by
    show { s.walker with
      taken := s.walker.taken.map fun o => { o with holds := holdsLeft n o.holds }
      active := s.walker.active.map fun a => { a with holds := holdsLeft n a.holds } } = s.walker
    rw [taken_left taken, active_left active]
  show { emptyEntry n s with walker := (loadDropped n s).walker } = emptyEntry n s
  rw [held]
  rfl

/-- A TAKEN holder ends with MEMORY_ERROR (R89). -/
theorem failLoad_taken {o : TakenOrder} (taken : s.walker.taken = some o) (held : ∃ y ∈ o.holds, y.entry = n)
    (ending : o.ending = false) (active : ∀ a, s.walker.active = some a → ¬∃ y ∈ a.holds, y.entry = n) :
    ∃ e, (failLoad n s).walker.taken = some e ∧ e.primary = .memoryError ∧ e.ending = true ∧
      (¬∃ y ∈ e.holds, y.entry = n) ∧ (failLoad n s).walker.active = s.walker.active ∧
      (failLoad n s).cache = (emptyEntry n s).cache := by
  have failed : failLoad n s = failTaken .memoryError (loadDropped n s) := by
    rw [failLoad_eq]
    dsimp only
    rw [any_held_eq_false active, taken]
    exact if_pos ((holdsEntry_iff n o.holds).2 held)
  have left : (loadDropped n s).walker.taken = some { o with holds := holdsLeft n o.holds } := by
    show s.walker.taken.map _ = _
    rw [taken]
    rfl
  obtain ⟨e, taken', primary, ended, holds, active', cache⟩ := failTaken_fails (code := .memoryError) left ending
  rw [failed]
  exact ⟨e, taken', primary, ended, by rw [holds]; exact not_held_left n o.holds,
    active'.trans (active_left active), cache⟩

/-- An ACTIVE holder fails with MEMORY_ERROR (R89). -/
theorem failLoad_active {a : ActiveOrder} (active : s.walker.active = some a) (held : ∃ y ∈ a.holds, y.entry = n)
    (ending : a.ending = false) (open' : s.plate.phase ≠ .shutdown)
    (taken : ∀ o, s.walker.taken = some o → ¬∃ y ∈ o.holds, y.entry = n) :
    ∃ b, (failLoad n s).walker.active = some b ∧
      b.primary = (if a.primary = .none then .memoryError else a.primary) ∧ (¬∃ y ∈ b.holds, y.entry = n) ∧
      (failLoad n s).walker.taken = s.walker.taken ∧ (failLoad n s).plate.phase = .shutdown ∧
      (a.kind ≠ .reference → (failLoad n s).cache = (emptyEntry n s).cache) := by
  have failed : failLoad n s = failActive .memoryError (loadDropped n s) := by
    rw [failLoad_eq]
    dsimp only
    rw [any_held_eq_false taken, active]
    exact congrArg _ (if_pos ((holdsEntry_iff n a.holds).2 held))
  have left : (loadDropped n s).walker.active = some { a with holds := holdsLeft n a.holds } := by
    show s.walker.active.map _ = _
    rw [active]
    rfl
  obtain ⟨_, _, _, _, _, _, _, e, cache⟩ := failActive_eq (code := .memoryError) left ending open'
  rw [failed, e]
  refine ⟨_, rfl, (recordCode_codes .memoryError s.plate _).1, ?_, taken_left taken, rfl, cache⟩
  have same : ∀ (code : ResultCode) (p : Plate) (b : ActiveOrder),
      (handCounts p (recordCode code b)).holds = b.holds := by
    intro code p b
    unfold recordCode handCounts
    split
    · rfl
    · split <;> rfl
  dsimp only
  rw [same]
  exact not_held_left n a.holds

end

theorem loadReadFailed_eq {s : State} {n : Nat} {c : CacheEntry} {l : Load} (entry : s.cache.entries[n]? = some c)
    (load : c.load = some l) : loadReadFailed n l.op s = failLoad n s := by
  unfold loadReadFailed
  rw [entryAt_of_get entry, load]
  exact if_pos rfl

theorem landLoad_eq {c : CacheEntry} {l : Load} (loading : c.state = .loading) (load : c.load = some l) (length : Nat) :
    landLoad length c =
      if l.landed + length = 33554432 then { c with state := .ready, load := none }
      else { c with load := some { l with landed := l.landed + length } } := by
  unfold landLoad
  rw [loading, load]
  rfl

/-- Settles O52. -/
theorem loadsLandOrFailTheirHolders : Obligations.LoadsLandOrFailTheirHolders := by
  refine ⟨fun s n entry offset r c l data found purpose sent length place loading load => ?lands,
    fun s n entry offset r c l found purpose sent place load => ?fails⟩
  case lands =>
    refine ⟨completeRead n data s, rfl, ?_⟩
    intro base
    have landed : completeRead n data s =
        modEntry entry (landLoad data.length) (writeFrame (entryBase entry + offset) data (removeRead n s)) := by
      rw [completeRead_eq found sent length, purpose]
      show loadRead entry l.op offset data (removeRead n s) = _
      unfold loadRead
      rw [entryAt_of_get (s := removeRead n s) place, load]
      exact if_neg (not_not.2 rfl)
    rw [landed]
    refine ⟨fun i inside => memoryRead_write_inside s.frame base data inside,
      fun a outside => memoryRead_write_outside s.frame base data outside, ?_⟩
    show (s.cache.entries.modify entry (landLoad data.length))[entry]? = _
    rw [List.getElem?_modify_eq, place]
    exact congrArg some (landLoad_eq loading load data.length)
  case fails =>
    intro held emptied both
    have failed : readFailed r.purpose (removeRead n s) = failLoad entry (removeRead n s) := by
      rw [purpose]
      exact loadReadFailed_eq (s := removeRead n s) place load
    have alike : ∀ effect : Instr → Prop,
        (∀ command, exec command s = .next (settle (failLoad entry (removeRead n s))) → effect command) →
        both effect := fun effect h => ⟨h _ (by rw [← failed, ← errorRead_eq found sent]; rfl),
        h _ (by rw [← failed, ← timeoutRead_eq found]; rfl)⟩
    clear_value both
    have cleared : emptyEntry entry (removeRead n s) = { removeRead n s with cache := emptied } :=
      emptyEntry_eq (s := removeRead n s) place
    refine ⟨fun taken active => ?_, fun o taken hold ending active => ?_,
      fun a active hold ending open' taken => ?_⟩
    · refine alike _ fun command run => ?_
      rw [failLoad_unheld (s := removeRead n s) taken active, cleared] at run
      exact .of_settle run rfl
    · obtain ⟨e, taken', primary, ended, left, same, cache⟩ :=
        failLoad_taken (s := removeRead n s) taken hold ending active
      refine alike _ fun command run => ?_
      exact ⟨_, e, run, by rw [cache, cleared], taken', primary, ended, left, same⟩
    · obtain ⟨b, active', primary, left, same, phase, cache⟩ :=
        failLoad_active (s := removeRead n s) active hold ending open' taken
      refine alike _ fun command run => ?_
      exact ⟨_, b, run, active', primary, left, same, phase, fun kind => by rw [cache kind, cleared]⟩

end Sys2Proof.Machine
end

section
/-! PROOFS. The making of a reference: the sums of the frames and the rows built from them (R92, R95, R96). -/

namespace Sys2Proof.Machine

/-! ## Rows of frame memory (R66, R92) -/

/-- A range of frame memory reads the same where each of its bytes does. -/
theorem frameBytes_congr {s t : State} (wf : Memory.wf s.frame) (wf' : Memory.wf t.frame)
    (powerOns : s.powerOns = t.powerOns) {base n : Nat}
    (same : ∀ i < n, memoryRead s.frame (base + i) = memoryRead t.frame (base + i)) :
    frameBytes s base n = frameBytes t base n := by
  apply List.ext_getElem?
  intro i
  by_cases inside : i < n
  · rw [frameBytes_getElem? wf base inside, frameBytes_getElem? wf' base inside, same i inside, powerOns]
  · rw [List.getElem?_eq_none (by simpa using inside), List.getElem?_eq_none (by simpa using inside)]

/-- What has been written reads back. -/
theorem frameBytes_write {s : State} (wf : Memory.wf s.frame) (base : Nat) (data : List Byte) :
    frameBytes (writeFrame base data s) base data.length = data := by
  apply List.ext_getElem?
  intro i
  by_cases inside : i < data.length
  · rw [frameBytes_getElem? (memoryWrite_wf wf base data) base inside]
    show some ((memoryRead (memoryWrite base data s.frame) (base + i)).getD _) = _
    rw [memoryRead_write_inside s.frame base data inside, List.getElem?_eq_getElem inside, Option.getD_some]
  · rw [List.getElem?_eq_none (by simpa using inside), List.getElem?_eq_none (by simpa using inside)]

theorem values32_bytes32 (values : List Nat) : values32 (bytes32 values) = values.map (· % 2 ^ 32) := by
  induction values with
  | nil => rfl
  | cons v rest ih =>
    show (_ :: values32 (bytes32 rest)) = _
    rw [ih, List.map_cons]
    congr 1
    simp only [BitVec.toNat_ofNat]
    omega

theorem bytes32_length (values : List Nat) : (bytes32 values).length = 4 * values.length := by
  induction values with
  | nil => rfl
  | cons v rest ih =>
    show (bytes32 rest).length + 4 = _
    rw [ih, List.length_cons]
    omega

theorem values16_lt {bytes : List Byte} {v : Nat} (mem : v ∈ values16 bytes) : v < 65536 := by
  induction bytes using values16.induct with
  | case1 a b rest ih =>
    rcases List.mem_cons.1 mem with rfl | mem
    · omega
    · exact ih mem
  | case2 bytes short => simp [values16] at mem

theorem values32_length (n : Nat) (bytes : List Byte) (h : bytes.length = 4 * n) : (values32 bytes).length = n := by
  induction n generalizing bytes with
  | zero =>
    rw [List.length_eq_zero_iff.1 h]
    rfl
  | succ n ih =>
    match bytes, h with
    | _ :: _ :: _ :: _ :: rest, h => simpa [values32] using ih rest (by simpa [Nat.mul_add] using h)
    | [_, _, _], h => simp [Nat.mul_add] at h
    | [_, _], h => simp [Nat.mul_add] at h
    | [_], h => simp [Nat.mul_add] at h
    | [], h => simp at h

theorem rowSums_length (s : State) (acc : Nat × Nat) (row : Nat) : (rowSums s acc row).length = 4096 :=
  values32_length 4096 _ (frameBytes_length s _ _)

/-- A byte of an accumulator (R92). -/
def inAccumulator (acc : Nat × Nat) (a : Nat) : Prop :=
  slotBase acc.1 ≤ a ∧ a < slotBase acc.1 + 33554432 ∨ slotBase acc.2 ≤ a ∧ a < slotBase acc.2 + 33554432

section
variable {acc : Nat × Nat} {row : Nat}

theorem accumulatorRow_inside {i : Nat} (inside : i < 16384) :
    inAccumulator acc (accumulatorRow acc row + i) := by
  unfold inAccumulator accumulatorRow
  split <;> omega

theorem accumulatorRow_apart (apart : acc.1 ≠ acc.2) {other : Nat} (small : row < 4096) (small' : other < 4096)
    (ne : row ≠ other) :
    accumulatorRow acc row + 16384 ≤ accumulatorRow acc other ∨
      accumulatorRow acc other + 16384 ≤ accumulatorRow acc row := by
  unfold accumulatorRow slotBase Config.imageBytes
  split <;> split <;> omega

/-- The rows of a slot that is no accumulator lie outside the accumulators (R92). -/
theorem slotRow_outside {slot : Nat} (low : slot ≠ acc.1) (high : slot ≠ acc.2) (small : row < 4096) {i : Nat}
    (inside : i < 8192) : ¬inAccumulator acc (slotBase slot + row * 8192 + i) := by
  unfold inAccumulator slotBase Config.imageBytes
  omega

end

/-! ## The sums (R92) -/

/-- The sums of a row once a frame is taken in: set for the first frame, added modulo 2^32 for a later one (R92). -/
def sumsAfter (s : State) (acc : Nat × Nat) (slot : Nat) (first : Bool) (row : Nat) : List Nat :=
  if first then rowValues s (slotBase slot) row
  else List.zipWith (fun sum sample => (sum + sample) % 2 ^ 32) (rowSums s acc row) (rowValues s (slotBase slot) row)

/-- What the rows below `n` of a frame taken into the accumulators make of the state `s` (R92). -/
structure Accumulated (s : State) (acc : Nat × Nat) (slot : Nat) (first : Bool) (n : Nat) (u : State) : Prop where
  frameOnly : u = { s with frame := u.frame }
  wf : Memory.wf u.frame
  outside : ∀ a, ¬inAccumulator acc a → memoryRead u.frame a = memoryRead s.frame a
  later : ∀ row < 4096, n ≤ row → rowSums u acc row = rowSums s acc row
  taken : ∀ row < n, rowSums u acc row = sumsAfter s acc slot first row

section
variable {s u : State} {acc : Nat × Nat} {slot : Nat} {first : Bool} {n : Nat}

theorem rowValues_outside (wf : Memory.wf s.frame) (h : Accumulated s acc slot first n u) (low : slot ≠ acc.1)
    (high : slot ≠ acc.2) {row : Nat} (small : row < 4096) :
    rowValues u (slotBase slot) row = rowValues s (slotBase slot) row :=
  congrArg values16 (frameBytes_congr h.wf wf (by rw [h.frameOnly]) fun _ inside =>
    h.outside _ (slotRow_outside low high small inside))

/-- The bytes that row `n` writes, when it is its turn (R92). -/
def sumBytes (u : State) (acc : Nat × Nat) (slot : Nat) (first : Bool) (n : Nat) : List Byte :=
  bytes32 (if first then rowValues u (slotBase slot) n
    else List.zipWith (· + ·) (rowSums u acc n) (rowValues u (slotBase slot) n))

theorem sumBytes_length (u : State) (acc : Nat × Nat) (slot : Nat) (first : Bool) (n : Nat) :
    (sumBytes u acc slot first n).length = 16384 := by
  unfold sumBytes
  rw [bytes32_length]
  split
  · rw [rowValues_length]
  · rw [List.length_zipWith, rowSums_length, rowValues_length, Nat.min_self]

theorem values32_sumBytes (u : State) (acc : Nat × Nat) (slot : Nat) (first : Bool) (n : Nat) :
    values32 (sumBytes u acc slot first n) = sumsAfter u acc slot first n := by
  unfold sumBytes sumsAfter
  rw [values32_bytes32]
  split
  · refine (List.map_congr_left fun v mem => ?_).trans (List.map_id _)
    have := values16_lt mem
    exact Nat.mod_eq_of_lt (by omega)
  · rw [List.map_zipWith]

theorem Accumulated.step (wf : Memory.wf s.frame) (h : Accumulated s acc slot first n u) (apart : acc.1 ≠ acc.2)
    (low : slot ≠ acc.1) (high : slot ≠ acc.2) (small : n < 4096) :
    Accumulated s acc slot first (n + 1) (accumulateRow acc slot first n u) := by
  have written : accumulateRow acc slot first n u =
      writeFrame (accumulatorRow acc n) (sumBytes u acc slot first n) u := rfl
  have kept : ∀ row < 4096, row ≠ n →
      rowSums (writeFrame (accumulatorRow acc n) (sumBytes u acc slot first n) u) acc row = rowSums u acc row :=
    fun row inside ne => congrArg values32 (frameBytes_congr (s := writeFrame _ _ u)
      (memoryWrite_wf h.wf _ (sumBytes u acc slot first n)) h.wf rfl fun i within =>
        memoryRead_write_outside u.frame _ _ (by
          rw [sumBytes_length]
          have := accumulatorRow_apart apart inside small ne
          omega))
  rw [written]
  refine ⟨?_, memoryWrite_wf h.wf _ _, fun a out => ?_, fun row inside later => ?_, fun row below => ?_⟩
  · exact congrArg (writeFrame (accumulatorRow acc n) (sumBytes u acc slot first n)) h.frameOnly
  · rw [← h.outside a out]
    refine memoryRead_write_outside _ _ _ ?_
    rw [sumBytes_length]
    by_contra within
    refine out ?_
    have place := accumulatorRow_inside (acc := acc) (row := n) (i := a - accumulatorRow acc n) (by omega)
    rwa [show accumulatorRow acc n + (a - accumulatorRow acc n) = a by omega] at place
  · rw [kept row inside (by omega), h.later row inside (by omega)]
  · by_cases here : row = n
    · subst here
      have read := frameBytes_write h.wf (accumulatorRow acc row) (sumBytes u acc slot first row)
      rw [sumBytes_length] at read
      unfold rowSums
      rw [read, values32_sumBytes]
      unfold sumsAfter
      rw [rowValues_outside wf h low high small, h.later row small (Nat.le_refl row)]
    · rw [kept row (by omega) here, h.taken row (by omega)]

theorem accumulateRows_accumulated (wf : Memory.wf s.frame) (apart : acc.1 ≠ acc.2) (low : slot ≠ acc.1)
    (high : slot ≠ acc.2) (small : n ≤ 4096) :
    Accumulated s acc slot first n (accumulateRows acc slot first n s) := by
  induction n with
  | zero => exact ⟨rfl, wf, fun _ _ => rfl, fun _ _ _ => rfl, fun _ h => absurd h (Nat.not_lt_zero _)⟩
  | succ n ih => exact (ih (by omega)).step wf apart low high (by omega)

end

/-- What taking a frame in leaves in the state `t` in which its rows are in the sums (R92). -/
def frameTaken (slot : Nat) (t : State) : State :=
  modPlate (fun p => { p with frameAccumulated := true })
    (modWork (fun w => { w with accumulated := w.accumulated + 1, frameInHand := none })
      (moveSlots [.full] .free [slot] t))

theorem frameTaken_leaves {s t : State} {w : ReferenceWork} {acc : Nat × Nat} {slot : Nat} {first : Bool}
    (sums : Accumulated s acc slot first Config.frameRows t) (work : s.cache.work = some w)
    (inside : slot < s.intake.slots.length) (full : (slotAt s slot).state = .full) :
    (slotAt (frameTaken slot t) slot).state = .free ∧
      (frameTaken slot t).cache.work = some { w with accumulated := w.accumulated + 1, frameInHand := none } ∧
      (∀ row < 4096, rowSums (frameTaken slot t) acc row = sumsAfter s acc slot first row) ∧
      ∀ a, ¬inAccumulator acc a → memoryRead (frameTaken slot t).frame a = memoryRead s.frame a := by
  have cache : t.cache = s.cache := by rw [sums.frameOnly]
  have intake : t.intake = s.intake := by rw [sums.frameOnly]
  refine ⟨?_, ?_, fun row small => sums.taken row small, fun a out => sums.outside a out⟩
  · have held : SlotIn [.free, .full] slot t :=
      ⟨by rw [intake]; exact inside, by unfold slotAt at *; rw [intake, full]; simp⟩
    exact List.mem_singleton.1 (moveSlots_frees (List.mem_singleton.2 rfl) held).2
  · show t.cache.work.map _ = _
    rw [cache, work]
    rfl

theorem accumulateFrame_eq {s : State} {w : ReferenceWork} {slot : Nat} {acc : Nat × Nat}
    (work : s.cache.work = some w) (accumulators : w.accumulators = some acc) (hand : w.frameInHand = some slot) :
    accumulateFrame s = frameTaken slot (accumulateRows acc slot (w.accumulated = 0) Config.frameRows s) := by
  unfold accumulateFrame
  rw [work]
  dsimp only
  rw [accumulators, hand]
  rfl

/-- Settles O53. -/
theorem framesAccumulate : Obligations.FramesAccumulate := by
  intro s w low high slot wf work accumulators hand apart ne_low ne_high inside full
  have sums := accumulateRows_accumulated (n := Config.frameRows) (acc := (low, high)) (first := w.accumulated = 0) wf
    apart ne_low ne_high (Nat.le_refl 4096)
  refine ⟨accumulateFrame s, rfl, ?_⟩
  obtain ⟨freed, work', taken, outside⟩ := frameTaken_leaves sums work inside full
  rw [accumulateFrame_eq work accumulators hand]
  refine ⟨freed, work', fun row small => (taken row small).trans ?_, fun a outLow outHigh => outside a ?_⟩
  · unfold sumsAfter
    simp only [decide_eq_true_eq]
  · rintro (⟨_, _⟩ | ⟨_, _⟩) <;> dsimp only at * <;> omega

/-- Settles O54. -/
theorem builtRowIsInstalledAndWritten : Obligations.BuiltRowIsInstalledAndWritten := by
  refine ⟨fun s w acc n work stage accumulators install small => ?_, fun s w acc => rfl, fun frames sum _ => rfl,
    fun frames sums darks => ⟨rfl, ?_⟩, fun sum => rfl⟩
  · refine ⟨buildRow s, rfl, ?_⟩
    intro values base
    have built : buildRow s =
        modWork (fun w => { w with row := w.row + 1, sum := w.sum + values.sum })
          (presentWriteBack (writeSpan (w.image + w.row * 8192) (bytes16 values) .cacheWrite (.rowWritten w.op w.row))
            (writeFrame base (bytes16 values) s)) := by
      unfold buildRow
      rw [work]
      dsimp only
      rw [stage, accumulators, install]
      exact if_neg (Nat.not_le.2 small)
    rw [built]
    refine ⟨?_, rfl, fun i inside => memoryRead_write_inside s.frame base _ inside,
      fun a outside => memoryRead_write_outside s.frame base _ outside⟩
    show s.cache.work.map _ = _
    rw [work]
    rfl
  · exact List.zipWith_map_left

end Sys2Proof.Machine
end

section
/-! PROOFS. The tile plan and the clamps (R12, R131). -/

namespace Sys2Proof.Machine

/-! ## The tile plan (R12) -/

section
variable {nx : Nat}

theorem sequenceColumn_eq (nx q : Nat) :
    sequenceColumn nx q = if q / nx % 2 = 0 then q % nx else nx - 1 - q % nx := by
  unfold sequenceColumn
  dsimp only
  rw [← Nat.mod_eq_sub_div_mul]

theorem sequenceColumn_lt (pos : 1 ≤ nx) (q : Nat) : sequenceColumn nx q < nx := by
  have := Nat.mod_lt q pos
  rw [sequenceColumn_eq]
  split <;> omega

theorem sequenceTile_div (pos : 1 ≤ nx) (q : Nat) : sequenceTile nx q / nx = q / nx := by
  unfold sequenceTile
  rw [Nat.add_comm, Nat.add_mul_div_right _ _ pos, Nat.div_eq_of_lt (sequenceColumn_lt pos q), Nat.zero_add]

theorem sequenceTile_mod (pos : 1 ≤ nx) (q : Nat) : sequenceTile nx q % nx = sequenceColumn nx q := by
  unfold sequenceTile
  rw [Nat.add_comm, Nat.add_mul_mod_self_right, Nat.mod_eq_of_lt (sequenceColumn_lt pos q)]

/-- The plan is its own inverse: the columns of a row are mirrored or kept. -/
theorem sequenceTile_sequenceTile (pos : 1 ≤ nx) (q : Nat) : sequenceTile nx (sequenceTile nx q) = q := by
  have small := Nat.mod_lt q pos
  have column : sequenceColumn nx (sequenceTile nx q) = q % nx := by
    rw [sequenceColumn_eq, sequenceTile_div pos, sequenceTile_mod pos, sequenceColumn_eq]
    split <;> omega
  show sequenceTile nx q / nx * nx + sequenceColumn nx (sequenceTile nx q) = q
  rw [column, sequenceTile_div pos, Nat.div_add_mod']

theorem sequenceTile_lt {ny : Nat} (pos : 1 ≤ nx) {q : Nat} (inside : q < nx * ny) : sequenceTile nx q < nx * ny := by
  rw [Nat.mul_comm, ← Nat.div_lt_iff_lt_mul pos] at *
  rwa [sequenceTile_div pos]

end

/-- Settles O55. -/
theorem tilePlanIsSerpentine : Obligations.TilePlanIsSerpentine := by
  intro nx ny pos
  refine ⟨fun q inside => ⟨sequenceTile_lt pos inside, sequenceTile_div pos q, ?_⟩, fun tile inside =>
    ⟨sequenceTile nx tile, sequenceTile_lt pos inside, sequenceTile_sequenceTile pos tile, fun p _ same => ?_⟩⟩
  · rw [sequenceTile_mod pos, sequenceColumn_eq]
  · rw [← same, sequenceTile_sequenceTile pos]

/-! ## The clamps (R131) -/

theorem clampLevel_eq_self_iff (v : Nat) : clampLevel v = v ↔ ¬(v < 1 ∨ 1000 < v) := by
  unfold clampLevel clampTo
  omega

theorem clampLevel_inside (v : Nat) : ¬(clampLevel v < 1 ∨ 1000 < clampLevel v) := by
  unfold clampLevel clampTo
  omega

theorem clampMember_eq_self_iff (m : MemberSpec) :
    { m with level := clampLevel m.level } = m ↔ ¬(m.level < 1 ∨ 1000 < m.level) := by
  rw [← clampLevel_eq_self_iff]
  cases m
  simp

theorem clampMembers_eq_self_iff (members : List MemberSpec) :
    clampMembers members = members ↔ ∀ m ∈ members, ¬(m.level < 1 ∨ 1000 < m.level) := by
  conv_lhs => rhs; rw [← List.map_id members]
  unfold clampMembers
  rw [List.map_inj_left]
  exact forall₂_congr fun m _ => clampMember_eq_self_iff m

theorem clampDarkfield_eq_self_iff (d : DarkfieldSpec) :
    clampDarkfield d = d ↔ ¬(d.level < 1 ∨ 1000 < d.level) ∧ d.threshold ≠ 0 := by
  rw [← clampLevel_eq_self_iff]
  cases d
  simp only [clampDarkfield, DarkfieldSpec.mk.injEq, true_and]
  omega

/-- What the clamps leave of a PLATE body exactly when they change nothing (R131). -/
theorem clampPlate_eq_self_iff (b : PlateBody) :
    clampPlate b = b ↔
      min (max 1 b.floor) (clampTo 2 16383 b.ceiling - 1) = b.floor ∧ clampTo 2 16383 b.ceiling = b.ceiling ∧
        max 1 b.flatFloor = b.flatFloor ∧ clampMembers b.members = b.members ∧
        b.darkfield.map clampDarkfield = b.darkfield ∧ (b.mask && b.darkfield.isSome) = b.mask := by
  cases b
  simp only [clampPlate, PlateBody.mk.injEq, true_and]
  tauto


theorem clampDarkfield_inside (d : DarkfieldSpec) :
    ¬((clampDarkfield d).level < 1 ∨ 1000 < (clampDarkfield d).level) ∧ 1 ≤ (clampDarkfield d).threshold :=
  ⟨clampLevel_inside d.level, Nat.le_max_left 1 d.threshold⟩

theorem clampMembers_inside {members : List MemberSpec} {m : MemberSpec} (mem : m ∈ clampMembers members) :
    ¬(m.level < 1 ∨ 1000 < m.level) := by
  obtain ⟨before, _, rfl⟩ := List.mem_map.1 mem
  exact clampLevel_inside before.level

theorem map_clampDarkfield_eq_self_iff (d : Option DarkfieldSpec) :
    d.map clampDarkfield = d ↔ ∀ x, d = some x → ¬(x.level < 1 ∨ 1000 < x.level) ∧ x.threshold ≠ 0 := by
  cases d with
  | none => simp
  | some x => simp [clampDarkfield_eq_self_iff]

/-- The clamped PLATE body is a fixed point of the clamps. -/
theorem clampPlate_clampPlate (b : PlateBody) : clampPlate (clampPlate b) = clampPlate b := by
  rw [clampPlate_eq_self_iff]
  refine ⟨?_, ?_, ?_, (clampMembers_eq_self_iff _).2 fun m mem => clampMembers_inside mem,
    (map_clampDarkfield_eq_self_iff _).2 fun x same => ?_, ?_⟩
  · simp only [clampPlate, clampTo]
    omega
  · simp only [clampPlate, clampTo]
    omega
  · simp only [clampPlate]
    omega
  · obtain ⟨d, -, rfl⟩ := Option.map_eq_some_iff.1 same
    obtain ⟨level, threshold⟩ := clampDarkfield_inside d
    exact ⟨level, Nat.one_le_iff_ne_zero.1 threshold⟩
  · simp [clampPlate]

theorem clampFlags_eq_none_iff (f : ClampFlags) :
    f = .none ↔ f.level = false ∧ f.floor = false ∧ f.ceiling = false ∧ f.flatFloor = false ∧ f.threshold = false ∧
      f.average = false ∧ f.service = false ∧ f.maskDropped = false := by
  cases f
  simp [ClampFlags.none]

section
variable (b : PlateBody)

theorem plateFlags_level : (plateFlags b).level = true ↔
    (∃ m ∈ b.members, m.level < 1 ∨ 1000 < m.level) ∨ ∃ d, b.darkfield = some d ∧ (d.level < 1 ∨ 1000 < d.level) := by
  have members : ¬(clampMembers b.members = b.members) ↔ ∃ m ∈ b.members, m.level < 1 ∨ 1000 < m.level := by
    rw [clampMembers_eq_self_iff]
    push Not
    rfl
  have field : (b.darkfield.any fun d => clampLevel d.level ≠ d.level) = true ↔
      ∃ d, b.darkfield = some d ∧ (d.level < 1 ∨ 1000 < d.level) := by
    cases b.darkfield <;> simp [clampLevel_eq_self_iff]
  rw [← members, ← field]
  simp [plateFlags]

theorem plateFlags_floor : (plateFlags b).floor = true ↔ b.floor = 0 := decide_eq_true_iff

theorem plateFlags_ceiling : (plateFlags b).ceiling = true ↔
    b.ceiling < 2 ∨ 16383 < b.ceiling ∨ (clampPlate b).ceiling ≤ max 1 b.floor := by
  simp only [plateFlags, clampPlate, Bool.or_eq_true, decide_eq_true_eq]
  unfold clampTo
  omega

theorem plateFlags_flatFloor : (plateFlags b).flatFloor = true ↔ b.flatFloor = 0 := decide_eq_true_iff

theorem plateFlags_threshold : (plateFlags b).threshold = true ↔ ∃ d, b.darkfield = some d ∧ d.threshold = 0 := by
  unfold plateFlags
  cases b.darkfield <;> simp

theorem plateFlags_maskDropped : (plateFlags b).maskDropped = true ↔ b.mask = true ∧ b.darkfield = none := by
  simp [plateFlags]

end

/-- No flag is set exactly when the clamps change nothing (R131). -/
theorem plateFlags_eq_none_iff (b : PlateBody) : plateFlags b = .none ↔ clampPlate b = b := by
  have level : (plateFlags b).level = false ∧ (plateFlags b).threshold = false ↔
      clampMembers b.members = b.members ∧ b.darkfield.map clampDarkfield = b.darkfield := by
    rw [clampMembers_eq_self_iff, map_clampDarkfield_eq_self_iff, ← Bool.not_eq_true, ← Bool.not_eq_true,
      plateFlags_level, plateFlags_threshold, not_or, and_assoc]
    refine and_congr (by push Not; rfl) ⟨fun ⟨inside, set⟩ d same => ?_, fun h => ⟨?_, ?_⟩⟩
    · exact ⟨fun out => inside ⟨d, same, out⟩, fun zero => set ⟨d, same, zero⟩⟩
    · rintro ⟨d, same, out⟩
      exact (h d same).1 out
    · rintro ⟨d, same, zero⟩
      exact (h d same).2 zero
  have bounds : (plateFlags b).floor = false ∧ (plateFlags b).ceiling = false ↔
      min (max 1 b.floor) (clampTo 2 16383 b.ceiling - 1) = b.floor ∧ clampTo 2 16383 b.ceiling = b.ceiling := by
    rw [← Bool.not_eq_true, ← Bool.not_eq_true, plateFlags_floor, plateFlags_ceiling]
    unfold clampPlate clampTo
    dsimp only
    omega
  have flat : (plateFlags b).flatFloor = false ↔ max 1 b.flatFloor = b.flatFloor := by
    rw [← Bool.not_eq_true, plateFlags_flatFloor]
    omega
  have mask : (plateFlags b).maskDropped = false ↔ (b.mask && b.darkfield.isSome) = b.mask := by
    unfold plateFlags
    cases b.mask <;> cases b.darkfield <;> simp
  rw [clampFlags_eq_none_iff, clampPlate_eq_self_iff, ← flat, ← mask]
  refine ⟨fun ⟨setLevel, setFloor, setCeiling, setFlat, setThreshold, _, _, setMask⟩ => ?_,
    fun ⟨setFloor, setCeiling, setFlat, setMembers, setField, setMask⟩ => ?_⟩
  · obtain ⟨setFloor, setCeiling⟩ := bounds.1 ⟨setFloor, setCeiling⟩
    obtain ⟨setMembers, setField⟩ := level.1 ⟨setLevel, setThreshold⟩
    exact ⟨setFloor, setCeiling, setFlat, setMembers, setField, setMask⟩
  · obtain ⟨setFloor, setCeiling⟩ := bounds.2 ⟨setFloor, setCeiling⟩
    obtain ⟨setLevel, setThreshold⟩ := level.2 ⟨setMembers, setField⟩
    exact ⟨setLevel, setFloor, setCeiling, setFlat, setThreshold, rfl, rfl, setMask⟩

/-- Settles O56. -/
theorem clampsBringTheBodyIntoRange : Obligations.ClampsBringTheBodyIntoRange := by
  unfold Obligations.ClampsBringTheBodyIntoRange
  intro outside
  refine ⟨fun b => ⟨rfl, rfl, rfl, rfl, rfl, fun m mem => clampMembers_inside mem, fun d some' => ?_, ?_,
    clampPlate_clampPlate b, ?_, plateFlags_level b, plateFlags_floor b, plateFlags_ceiling b, plateFlags_flatFloor b,
    plateFlags_threshold b, plateFlags_maskDropped b, rfl, rfl⟩, fun b => ⟨rfl, ?_, ?_, rfl⟩, fun b =>
      ⟨congrArg (fun count => OrderBody.service { b with count := count }) ?_, rfl⟩⟩
  · obtain ⟨before, -, rfl⟩ := Option.map_eq_some_iff.1 some'
    exact clampDarkfield_inside before
  · exact Bool.and_eq_true_iff
  · rw [plateFlags_eq_none_iff]
  · simp only [clampFlagsOf, referenceFlags, decide_eq_true_eq]
    unfold clampTo
    omega
  · simp [clampFlagsOf, referenceFlags, clampLevel_eq_self_iff, outside]
  · split <;> omega

end Sys2Proof.Machine
end

section
/-! PROOFS. The tone banks of the orders (R135, R136). -/

namespace Sys2Proof.Machine

/-! ## The banks -/

theorem modBank_freeBank (f : ToneBank → ToneBank) (w : Walker) (s : State) :
    modBank (freeBank w) f s =
      { s with walker := { s.walker with
          bank0 := if w.bank0.state = .free then f s.walker.bank0 else s.walker.bank0
          bank1 := if w.bank0.state = .free then s.walker.bank1 else f s.walker.bank1 } } := by
  unfold modBank freeBank
  by_cases free : w.bank0.state = .free
  · rw [if_pos free, if_pos free, if_pos free]
    rfl
  · rw [if_neg free, if_neg free, if_neg free]
    rfl

theorem setupAdvance_bank {s : State} {o : TakenOrder} {b : PlateBody} (taken : s.walker.taken = some o)
    (ending : o.ending = false) (reading : o.reading = none) (setup : o.setup = .resolving)
    (body : o.body = some (.plate b)) (roles : o.roles = []) (resolved : o.toResolve = []) :
    setupAdvance s = some (takeBank o b.toneTable (modTaken (fun o => { o with setup := .resolved }) s)) := by
  unfold setupAdvance
  rw [taken]
  dsimp only
  rw [ending, reading, setup, body, roles, resolved]
  rfl

section
variable {s : State} {x : TakenOrder} (o : TakenOrder)

theorem modTaken_some (f : TakenOrder → TakenOrder) (taken : s.walker.taken = some x) :
    modTaken f s = { s with walker := { s.walker with taken := some (f x) } } := by
  simp only [modTaken, modWalker, taken, Option.map_some]

theorem takeBank_builtIn (taken : s.walker.taken = some x) :
    takeBank o 0 s = modBank (freeBank s.walker) (fun _ => ⟨.loaded, some o.number, .builtIn, [], 0⟩)
      { s with walker := { s.walker with taken := some { x with bank := some (freeBank s.walker) } } } := by
  unfold takeBank
  dsimp only
  rw [if_pos rfl, modTaken_some _ taken]

theorem takeBank_host {address : Nat} (host : address ≠ 0) (taken : s.walker.taken = some x) :
    takeBank o address s =
      let reads := readSpan address 8192 fun offset => .tonePiece o.number offset
      modWalker (fun w => { w with toneReads := w.toneReads ++ reads })
        (modBank (freeBank s.walker) (fun b => ⟨.loading, some o.number, b.table, [], reads.length⟩)
          { s with walker := { s.walker with taken := some { x with bank := some (freeBank s.walker) } } }) := by
  unfold takeBank
  dsimp only
  rw [if_neg host, modTaken_some _ taken]

end

theorem values16_table (bytes : List Byte) :
    (values16 bytes).length = bytes.length / 2 ∧ ∀ i < bytes.length / 2,
      (values16 bytes)[i]? = some (leNat ((bytes.drop (2 * i)).take 2)) := by
  induction bytes using values16.induct with
  | case1 a b rest ih =>
    obtain ⟨length, value⟩ := ih
    refine ⟨?_, fun i inside => ?_⟩
    · rw [values16, List.length_cons, length, List.length_cons, List.length_cons]
      omega
    · cases i with
      | zero => simp [values16, leNat]
      | succ i =>
        rw [values16, List.getElem?_cons_succ, value i (by simp only [List.length_cons] at inside; omega)]
        rfl
  | case2 bytes short =>
    match bytes with
    | [] => exact ⟨rfl, fun i inside => absurd inside (by simp)⟩
    | [a] => exact ⟨by simp [values16], fun i inside => absurd inside (by simp)⟩
    | a :: b :: rest => exact absurd rfl (short a b rest)

/-! ## The load of a bank -/

theorem loadsFor_iff (owner : Nat) (b : ToneBank) :
    loadsFor owner b = true ↔ b.state = .loading ∧ b.owner = some owner ∧ 0 < b.awaited := by
  simp [loadsFor, and_assoc]

section
variable {s : State} {owner : Nat}

theorem loadingBank_eq (owner : Nat) (w : Walker) : loadingBank owner w =
    if loadsFor owner w.bank0 then some 0 else if loadsFor owner w.bank1 then some 1 else none := rfl

theorem loadingBank_none (low : ¬loadsFor owner s.walker.bank0 = true)
    (high : ¬loadsFor owner s.walker.bank1 = true) :
    loadingBank owner s.walker = none := by
  rw [loadingBank_eq, if_neg low, if_neg high]

theorem toneRead_none (none : loadingBank owner s.walker = none) (offset : Nat) (data : List Byte) :
    toneRead owner offset data s = s := by
  unfold toneRead
  rw [none]

theorem toneFailed_none (none : loadingBank owner s.walker = none) : toneFailed owner s = s := by
  unfold toneFailed
  rw [none]

theorem toneRead_low (loads : loadsFor owner s.walker.bank0 = true) (offset : Nat) (data : List Byte) :
    toneRead owner offset data s =
      { s with walker := { s.walker with bank0 := bankLanded ⟨offset, data⟩ s.walker.bank0 } } := by
  unfold toneRead
  rw [loadingBank_eq, if_pos loads]
  rfl

theorem toneRead_high (idle : ¬loadsFor owner s.walker.bank0 = true) (loads : loadsFor owner s.walker.bank1 = true)
    (offset : Nat) (data : List Byte) :
    toneRead owner offset data s =
      { s with walker := { s.walker with bank1 := bankLanded ⟨offset, data⟩ s.walker.bank1 } } := by
  unfold toneRead
  rw [loadingBank_eq, if_neg idle, if_pos loads]
  rfl

theorem bankLanded_eq {piece : Piece} {b : ToneBank} (loads : 0 < b.awaited) :
    bankLanded piece b =
      let pieces := insertPiece piece b.pieces
      if b.awaited = 1 then
        { b with state := .loaded, table := .host (values16 (pieceBytes pieces)), pieces := [], awaited := 0 }
      else { b with pieces := pieces, awaited := b.awaited - 1 } := by
  have last : b.awaited ≤ 1 ↔ b.awaited = 1 := by omega
  unfold bankLanded
  simp only [last]

theorem not_loadsFor_stopBank (owner : Nat) (b : ToneBank) : ¬loadsFor owner (stopBank owner b) = true := by
  rw [loadsFor_iff]
  unfold stopBank
  split
  · rintro ⟨_, _, waits⟩
    exact absurd waits (Nat.lt_irrefl 0)
  · next other =>
    rintro ⟨state, owned, _⟩
    exact other (by rw [state, owned]; simp)

theorem tonePurpose_eq_false {x : Request} (h : tonePurpose owner x = false) (k : Nat) :
    x.purpose ≠ .tonePiece owner k := by
  intro same
  unfold tonePurpose at h
  rw [same] at h
  simp at h

/-- The load of an order has ended: its waiting reads are gone and no bank loads for it (R135, R136). -/
def ToneEnded (s : State) (owner : Nat) (u : State) : Prop :=
  (¬loadsFor owner u.walker.bank0 = true ∧ ¬loadsFor owner u.walker.bank1 = true) ∧
    ∀ x ∈ u.walker.toneReads, x ∈ s.walker.toneReads ∧ ∀ k, x.purpose ≠ .tonePiece owner k

theorem toneEnded_of_stopped {t : State} {low high : ToneBank} {reads : List Request}
    (bank0 : t.walker.bank0 = stopBank owner low) (bank1 : t.walker.bank1 = stopBank owner high)
    (stopped : t.walker.toneReads = reads.filter fun r => !tonePurpose owner r)
    (kept : ∀ x ∈ reads, x ∈ s.walker.toneReads) : ToneEnded s owner t := by
  refine ⟨⟨?_, ?_⟩, fun x mem => ?_⟩
  · rw [bank0]
    exact not_loadsFor_stopBank owner low
  · rw [bank1]
    exact not_loadsFor_stopBank owner high
  · rw [stopped] at mem
    obtain ⟨mem, other⟩ := List.mem_filter.1 mem
    exact ⟨kept x mem, tonePurpose_eq_false (by simpa using other)⟩

end

theorem toneFailed_loads {s : State} {owner n : Nat} (loads : loadingBank owner s.walker = some n) :
    toneFailed owner s =
      if s.walker.taken.any fun o => o.number = owner then failTaken .memoryError (stopLoad owner s)
      else if activeNumber s = some owner then failActive .memoryError (stopLoad owner s) else stopLoad owner s := by
  unfold toneFailed
  rw [loads]

/-- A TAKEN order whose tone read fails ends with MEMORY_ERROR (R135, R136). -/
theorem toneFailed_taken {s : State} {owner n : Nat} {o : TakenOrder} (loads : loadingBank owner s.walker = some n)
    (taken : s.walker.taken = some o) (number : o.number = owner) (ending : o.ending = false) :
    ∃ e, ToneEnded s owner (toneFailed owner s) ∧ (toneFailed owner s).walker.taken = some e ∧
      e.primary = .memoryError ∧ e.ending = true ∧ e.holds = o.holds ∧
      (toneFailed owner s).walker.active = s.walker.active := by
  have failed : toneFailed owner s = failTaken .memoryError (stopLoad owner s) := by
    rw [toneFailed_loads loads, taken]
    exact if_pos (decide_eq_true number)
  rw [failed]
  unfold failTaken
  rw [endTaken_eq (s := stopLoad owner s) taken ending, number]
  exact ⟨_, toneEnded_of_stopped rfl rfl rfl fun x mem => (List.mem_filter.1 mem).1, rfl, rfl, rfl, rfl, rfl⟩

/-- The ACTIVE order whose tone read fails fails with MEMORY_ERROR (R135). -/
theorem toneFailed_active {s : State} {owner n : Nat} {a : ActiveOrder} (loads : loadingBank owner s.walker = some n)
    (taken : ∀ o, s.walker.taken = some o → o.number ≠ owner) (active : s.walker.active = some a)
    (number : a.number = owner) : toneFailed owner s = failActive .memoryError (stopLoad owner s) := by
  have other : (s.walker.taken.any fun o => o.number = owner) = false := by
    cases holder : s.walker.taken with
    | none => rfl
    | some o => exact decide_eq_false (taken o holder)
  have own : activeNumber s = some owner := by
    unfold activeNumber
    rw [active, Option.map_some, number]
  rw [toneFailed_loads loads, other, if_neg Bool.false_ne_true, if_pos own]

theorem toneEnded_failActive {s : State} {owner : Nat} (code : ResultCode) :
    ToneEnded s owner (failActive code (stopLoad owner s)) ∧
      (failActive code (stopLoad owner s)).walker.taken = s.walker.taken := by
  obtain ⟨_, _, _, _, _, _, _, _, e⟩ := failActive_parts code (stopLoad owner s)
  rw [e]
  exact ⟨toneEnded_of_stopped rfl rfl rfl fun _ mem => mem, rfl⟩

/-- Settles O57. -/
theorem toneBanksLoadForTheirOrders : Obligations.ToneBanksLoadForTheirOrders := by
  refine ⟨fun s o b taken ending reading setup body roles resolved free => ?takes, values16_table,
    fun s n owner offset r found purpose sent => ?reads⟩
  case takes =>
    intro low takes
    have advanced := setupAdvance_bank taken ending reading setup body roles resolved
    rw [modTaken_some _ taken] at advanced
    refine ⟨fun builtIn => advanced.trans ?_, fun host => advanced.trans ?_⟩
    · rw [builtIn, takeBank_builtIn o (x := { o with setup := .resolved }) rfl, modBank_freeBank, List.append_nil]
      rfl
    · rw [takeBank_host o host (x := { o with setup := .resolved }) rfl]
      dsimp only
      rw [modBank_freeBank]
      rfl
  case reads =>
    intro loads rest fails
    have iff := loadsFor_iff owner
    have failed : readFailed r.purpose (removeRead n s) = toneFailed owner (removeRead n s) := by rw [purpose]; rfl
    have landed : ∀ data : List Byte, data.length = r.length →
        exec (.readCompletion n data) s = .next (settle (toneRead owner offset data (removeRead n s))) := by
      intro data length
      show Host.Outcome.next (settle (completeRead n data s)) = _
      rw [completeRead_eq found sent length, purpose]
      rfl
    have alike : ∀ effect : Instr → Prop,
        (∀ command, exec command s = .next (settle (toneFailed owner (removeRead n s))) → effect command) →
        fails effect := fun effect h => ⟨h _ (by rw [← failed, ← errorRead_eq found sent]; rfl),
        h _ (by rw [← failed, ← timeoutRead_eq found]; rfl)⟩
    have none' : ¬loads s.walker.bank0 → ¬loads s.walker.bank1 → loadingBank owner s.walker = none := fun low high =>
      loadingBank_none (mt (iff _).1 low) (mt (iff _).1 high)
    clear_value fails
    refine ⟨fun data length => ⟨fun low => ?_, fun low high => ?_, fun low high => ?_⟩, fun low high => ?_,
      fun loading => ?_⟩
    · refine .of_settle (landed data length) ?_
      rw [toneRead_low (s := removeRead n s) ((iff _).2 low)]
      show { removeRead n s with walker := { s.walker with bank0 := bankLanded ⟨offset, data⟩ s.walker.bank0 } } = _
      rw [bankLanded_eq low.2.2]
      rfl
    · refine .of_settle (landed data length) ?_
      rw [toneRead_high (s := removeRead n s) (mt (iff _).1 low) ((iff _).2 high)]
      show { removeRead n s with walker := { s.walker with bank1 := bankLanded ⟨offset, data⟩ s.walker.bank1 } } = _
      rw [bankLanded_eq high.2.2]
      rfl
    · exact .of_settle (landed data length) (toneRead_none (s := removeRead n s) (none' low high) offset data)
    · refine alike _ fun command run => ?_
      rw [toneFailed_none (s := removeRead n s) (none' low high)] at run
      exact .of_settle run rfl
    · obtain ⟨bank, loading⟩ : ∃ bank, loadingBank owner s.walker = some bank := by
        rw [loadingBank_eq]
        rcases loading with low | high
        · exact ⟨0, if_pos ((iff _).2 low)⟩
        · split
          · exact ⟨0, rfl⟩
          · exact ⟨1, if_pos ((iff _).2 high)⟩
      have ended : ∀ u, ToneEnded s owner u → ¬loads u.walker.bank0 ∧ ¬loads u.walker.bank1 ∧
          ∀ x ∈ u.walker.toneReads, x ∈ s.walker.toneReads ∧ ∀ k, x.purpose ≠ .tonePiece owner k :=
        fun u ⟨⟨low, high⟩, reads⟩ => ⟨mt (iff _).2 low, mt (iff _).2 high, reads⟩
      refine ⟨fun o taken number ending => alike _ fun command run => ?_, fun taken a active number can =>
        alike _ fun command run => ?_⟩
      · obtain ⟨e, stopped, taken', primary, ends, holds, active⟩ :=
          toneFailed_taken (s := removeRead n s) loading taken number ending
        exact ⟨_, e, run, ended _ stopped, taken', primary, ends, holds, active⟩
      · rw [toneFailed_active (s := removeRead n s) loading taken active number] at run
        obtain ⟨stopped, same⟩ := toneEnded_failActive (s := removeRead n s) (owner := owner) .memoryError
        exact ⟨.of_failActive run can rfl rfl rfl, _, run, ended _ stopped, same⟩

end Sys2Proof.Machine
end

section
/-! PROOFS. Activation: the cancel sample, the ACTIVE write and the hand-over (R102, R139). -/

namespace Sys2Proof.Machine

/-! ## The activation sample (R139) -/

theorem activationDue_iff (s : State) (o : TakenOrder) :
    activationDue s o = true ↔ o.setup = .resolved ∧ o.ending = false ∧ s.walker.active = none ∧
      (s.port.runState = .running ∨ s.port.runState = .draining) := by
  simp [activationDue, and_assoc]

theorem activationSampled_goesOn {s : State} {op : Nat} {o : TakenOrder} (taken : s.walker.taken = some o)
    (sample : o.activationSample = some op) :
    activationSampled op false s =
      presentWalker [writeRequest o.address (leBytes 4 stateActive) (.activeState op)] s := by
  unfold activationSampled
  rw [taken]
  dsimp only
  rw [sample, if_neg (not_not.2 rfl)]
  rfl

/-! ## The hand-over (R2, R30, R102, R139) -/

/-- The Tile Writer takes the output parameters, presents the PENDING records and reads the descriptor (R102). -/
theorem writerActivate_eq (p : OutputParams) (descriptor : Nat) (s : State) :
    writerActivate p descriptor s =
      { s with
        nextOp := s.nextOp + 1
        writer := { clearPlanes s.writer with
          params := some p, nextList := 0, finished := [], tile := none, captureEnded := false, interrupted := none
          task := .activating (if descriptor = 0 then none else some s.nextOp) }
        port := { s.port with writerRequests := s.port.writerRequests ++ (gridTiles p).flatMap (pendingRequests p) ++
          if descriptor = 0 then [] else [⟨.read 64, descriptor, .descriptor s.nextOp, false⟩] } } := by
  unfold writerActivate
  dsimp only
  by_cases none' : descriptor = 0
  · rw [if_pos none', if_pos none', if_pos none', List.append_nil]
    rfl
  · rw [if_neg none', if_neg none', if_neg none']
    rfl

section
variable (body : OrderBody) (recheck : Nat) (p : Plate)

/-- The first phase leaves the order's context as the activation made it (R2). -/
theorem firstPhase_leaves :
    (firstPhase body recheck p).order = p.order ∧ (firstPhase body recheck p).retakes = p.retakes ∧
      (firstPhase body recheck p).lateEvents = p.lateEvents ∧ (firstPhase body recheck p).thickness = p.thickness ∧
      (firstPhase body recheck p).movingMark = p.movingMark := by
  cases body with
  | plate b =>
    unfold firstPhase
    dsimp only
    split <;> exact ⟨rfl, rfl, rfl, rfl, rfl⟩
  | reference b => exact ⟨rfl, rfl, rfl, rfl, rfl⟩
  | service b => exact ⟨rfl, rfl, rfl, rfl, rfl⟩

theorem firstPhase_plate (b : PlateBody) :
    (firstPhase (.plate b) recheck p).phase = if b.samePlate then .gauging else .interlock := by
  unfold firstPhase
  dsimp only
  split <;> rfl

end

section
variable (o : PlateOrder) (s : State)

theorem plateActivate_plate :
    (plateActivate o s).plate = firstPhase o.body o.recheck (freshContext (some o) s.plate) := by
  unfold plateActivate
  dsimp only
  split <;> rfl

/-- The Plate Controller accepts an activation; a REFERENCE order's asks for three slots (R2, R24). -/
theorem plateActivate_leaves :
    (plateActivate o s).walker = s.walker ∧ (plateActivate o s).merge = s.merge ∧
      (plateActivate o s).writer = s.writer ∧ (plateActivate o s).port = s.port ∧
      (plateActivate o s).cache = s.cache := by
  unfold plateActivate
  dsimp only
  split <;> exact ⟨rfl, rfl, rfl, rfl, rfl⟩

end

/-- The state in which the order is ACTIVE and not yet handed on (R137, R139). -/
def madeActive (o : TakenOrder) (body : OrderBody) (s : State) : State :=
  dropWalker takenPurpose
    (modWalker (fun w => { w with taken := none, active := some (activeOf o body), recheckTimer := none }) s)

theorem handParameters_walker (o : TakenOrder) (body : OrderBody) (s : State) :
    (handParameters o body s).walker = s.walker := by
  cases body with
  | plate b =>
    unfold handParameters
    dsimp only
    rw [writerActivate_eq]
    rfl
  | reference b => rfl
  | service b => rfl

theorem activate_eq {o : TakenOrder} {body : OrderBody} {s : State} {w : Settings}
    (settings : s.port.settings = some w) :
    activate o body s = plateActivate ⟨o.number, o.tag, body, w.motion, w.frame, w.recheck, w.exposure⟩
      (handParameters o body (madeActive o body s)) := by
  unfold activate
  dsimp only
  rw [settings]
  rfl

/-- What every activation leaves (R2, R137, R139). -/
theorem activate_leaves {o : TakenOrder} {body : OrderBody} {s : State} {w : Settings}
    (settings : s.port.settings = some w) :
    let u := activate o body s
    u.walker = (madeActive o body s).walker ∧
      u.plate.order = some ⟨o.number, o.tag, body, w.motion, w.frame, w.recheck, w.exposure⟩ ∧
      u.plate.retakes = 0 ∧ u.plate.lateEvents = 0 ∧ u.plate.thickness = none ∧ u.plate.movingMark = false := by
  intro u
  have made : u = _ := activate_eq settings
  rw [made, plateActivate_plate, (plateActivate_leaves _ _).1, handParameters_walker]
  exact ⟨rfl, firstPhase_leaves ..⟩

theorem activate_plate {o : TakenOrder} {b : PlateBody} {s : State} {w : Settings}
    (settings : s.port.settings = some w) :
    let u := activate o (.plate b) s
    u.plate.phase = (if b.samePlate then .gauging else .interlock) ∧ u.merge.params = some (mergeParams o b) ∧
      u.writer.params = some (outputParams o b) ∧ u.writer.nextList = 0 ∧ u.writer.finished = [] ∧
      u.port.writerRequests = s.port.writerRequests ++
        (gridTiles (outputParams o b)).flatMap (pendingRequests (outputParams o b)) ++
          if b.descriptor = 0 then [] else [⟨.read 64, b.descriptor, .descriptor s.nextOp, false⟩] := by
  intro u
  have made : u = _ := activate_eq settings
  obtain ⟨-, merge, writer, port, -⟩ := plateActivate_leaves
    ⟨o.number, o.tag, .plate b, w.motion, w.frame, w.recheck, w.exposure⟩
    (handParameters o (.plate b) (madeActive o (.plate b) s))
  rw [made, plateActivate_plate, merge, writer, port, firstPhase_plate]
  unfold handParameters
  dsimp only
  rw [writerActivate_eq]
  exact ⟨rfl, rfl, rfl, rfl, rfl, rfl⟩

/-- Settles O58. -/
theorem activationHandsTheOrderOn : Obligations.ActivationHandsTheOrderOn := by
  refine ⟨fun s o taken => ?sampled, fun s n op r o found purpose sent taken sample => ?answered,
    fun s q r data op o body w due purpose taken sample ending body' settings => ?accepted⟩
  case sampled =>
    intro due
    refine ⟨fun ready unasked => ?_, fun undue => ?_⟩
    · unfold activationAdvance
      rw [taken]
      dsimp only
      refine (if_pos (by rw [(activationDue_iff s o).2 ready, unasked]; rfl)).trans ?_
      rw [modTaken_some (s := useOp s) _ taken]
      rfl
    · unfold activationAdvance
      rw [taken]
      exact if_neg (by rw [Bool.and_eq_true, activationDue_iff]; exact fun h => undue h.1)
  case answered =>
    intro asked
    have goesOn : activationSampled op false (removeRead n s) = asked :=
      activationSampled_goesOn (s := removeRead n s) taken sample
    refine ⟨fun data length zero => .of_settle rfl ?_, .of_settle rfl ?_, .of_settle rfl ?_⟩
    · rw [completeRead_eq found sent length, purpose]
      show activationSampled op (leNat data ≠ 0) _ = _
      rw [zero]
      exact goesOn
    · rw [errorRead_eq found sent, purpose]
      exact goesOn
    · rw [timeoutRead_eq found, purpose]
      exact goesOn
  case accepted =>
    have turn : grantTurn s = activate o body (sentState s q r data) := by
      rw [due.turn_eq, purpose]
      show activeAccepted op (sentState s q r data) = _
      unfold activeAccepted
      rw [sentState_taken, taken]
      dsimp only
      rw [body']
      dsimp only
      rw [sample, ending]
      exact if_pos (by simp)
    have settings' : (sentState s q r data).port.settings = some w := by simpa using settings
    obtain ⟨walker, order, retakes, late, thickness, moving⟩ := activate_leaves (o := o) (body := body) settings'
    refine ⟨activate o body (sentState s q r data), by rw [← turn]; rfl, by rw [walker]; rfl, by rw [walker]; rfl,
      by rw [walker]; rfl, order, retakes, late, thickness, moving, fun b plate => ?_, fun b reference => ?_,
      fun b service => ?_⟩
    · subst plate
      obtain ⟨phase, merge, params, list, finished, requests⟩ := activate_plate (o := o) (b := b) settings'
      rw [sentState_nextOp] at requests
      exact ⟨phase, merge, params, list, finished, requests⟩
    · subst reference
      rw [activate_eq settings']
      exact ⟨rfl, rfl, rfl⟩
    · subst service
      rw [activate_eq settings']
      rfl

end Sys2Proof.Machine
end

section
/-! PROOFS. The end of the ACTIVE order and what its final state releases (R143 to R145). -/

namespace Sys2Proof.Machine

/-! ## The final write (R143, R144) -/

theorem finalDue_iff (s : State) (a : ActiveOrder) :
    finalDue s a = true ↔ a.ending = false ∧ a.captureEnded = true ∧ a.workEnded = true ∧ a.slotGroupOut = false ∧
      (s.plate.phase = .shutdown → s.plate.shutdownReported = true) := by
  simp only [finalDue, shutdownOver, Bool.and_eq_true, Bool.not_eq_true', Bool.or_eq_true, decide_eq_true_eq,
    ← imp_iff_not_or, and_assoc, and_comm (b := a.slotGroupOut = false)]
  tauto

/-! ## What a final state releases (R77, R87, R135, R144) -/

theorem releaseHolds_entries (holds : List CacheHold) (s : State) (n : Nat) :
    (releaseHolds holds s).cache.entries[n]? = s.cache.entries[n]?.map fun e : CacheEntry =>
      if e.state = .empty then e else { e with holds := e.holds - (holds.map CacheHold.entry).count n } := by
  unfold releaseHolds
  induction holds generalizing s with
  | nil =>
    simp
  | cons h rest ih =>
    rw [List.foldl_cons, ih, List.map_cons, List.count_cons]
    show (s.cache.entries.modify h.entry _)[n]?.map _ = _
    rw [List.getElem?_modify]
    by_cases here : h.entry = n
    · cases s.cache.entries[n]? with
      | none => rfl
      | some e =>
        by_cases empty : e.state = .empty
        · simp [here, empty]
        · simp [here, empty]
          omega
    · cases s.cache.entries[n]? with
      | none => rfl
      | some e => simp [here]

section
variable {s : State} {m n : Nat}

/-- A cancelled trigger leaves every slot its owner (R63). -/
theorem slotAt_cancelSlot_owner (inside : m < s.intake.slots.length) :
    (slotAt (cancelSlot n s) m).owner = (slotAt s m).owner := by
  unfold cancelSlot
  split
  · unfold cancelTag
    split
    · rfl
    · rw [slotAt_modSlot (s := modIntake _ s) inside]
      split
      · next same =>
        subst same
        split <;> rfl
      · rfl
  · rfl

theorem SlotIn.cancelSlot {states : List SlotState} (filling : .filling ∉ states) (h : SlotIn states m s) :
    SlotIn states m (cancelSlot n s) := by
  unfold Machine.cancelSlot
  split
  · exact h.cancelTag filling
  · exact h

theorem cancelSlot_length (n : Nat) (s : State) : (cancelSlot n s).intake.slots.length = s.intake.slots.length := by
  unfold cancelSlot
  split
  · unfold cancelTag
    split
    · rfl
    · simp [modSlot, modIntake]
  · rfl

/-- One step of an order's sweep of its slots (R77). -/
def sweepSlot (order n : Nat) (s : State) : State :=
  if (slotAt s n).owner = some order then modSlot n (fun _ => .reset) (cancelSlot n s) else s

theorem SlotIn.sweepSlot {order : Nat} (h : SlotIn [.free] m s) : SlotIn [.free] m (sweepSlot order n s) := by
  unfold Machine.sweepSlot
  split
  · exact (h.cancelSlot (by simp)).modSlot fun x _ => List.mem_singleton.2 rfl
  · exact h

theorem sweepSlot_length (order n : Nat) (s : State) :
    (sweepSlot order n s).intake.slots.length = s.intake.slots.length := by
  unfold sweepSlot
  split
  · simp [modSlot, modIntake, cancelSlot_length]
  · rfl

theorem sweepSlot_own {order : Nat} (inside : n < s.intake.slots.length) (own : (slotAt s n).owner = some order) :
    SlotIn [.free] n (sweepSlot order n s) := by
  unfold SlotIn
  rw [sweepSlot_length]
  refine ⟨inside, ?_⟩
  unfold sweepSlot
  rw [if_pos own, slotAt_modSlot (by rw [cancelSlot_length]; exact inside), if_pos rfl]
  exact List.mem_singleton.2 rfl

theorem sweepSlot_other {order : Nat} (inside : m < s.intake.slots.length) (ne : m ≠ n) :
    (slotAt (sweepSlot order n s) m).owner = (slotAt s m).owner := by
  unfold sweepSlot
  split
  · rw [slotAt_modSlot (by rw [cancelSlot_length]; exact inside), if_neg ne, slotAt_cancelSlot_owner inside]
  · rfl

theorem sweepSlots_fold (order : Nat) (s : State) :
    sweepSlots order s = (List.range s.intake.slots.length).foldl (fun s n => sweepSlot order n s) s := rfl

/-- Every slot of the list that the order owns becomes FREE (R77). -/
theorem sweep_frees {order : Nat} {places : List Nat} (h : (m ∈ places ∧ m < s.intake.slots.length ∧
    (slotAt s m).owner = some order) ∨ SlotIn [.free] m s) :
    SlotIn [.free] m (places.foldl (fun s n => sweepSlot order n s) s) := by
  induction places generalizing s with
  | nil => exact h.resolve_left fun ⟨mem, _⟩ => nomatch mem
  | cons n rest ih =>
    rw [List.foldl_cons]
    refine ih ?_
    rcases h with ⟨mem, inside, own⟩ | free
    · by_cases here : m = n
      · subst here
        exact .inr (sweepSlot_own inside own)
      · exact .inl ⟨(List.mem_cons.1 mem).resolve_left here, by rw [sweepSlot_length]; exact inside,
          by rw [sweepSlot_other inside here]; exact own⟩
    · exact .inr free.sweepSlot

end

/-- A bank of an order freed, or as it was (R135, R144). -/
def bankFreed (number : Nat) (before after : ToneBank) : Prop :=
  if before.owner = some number then after.state = .free ∧ after.owner = none else after = before

/-- What every order's final state releases: its bank, its slots and its holds (R144). -/
theorem releaseOrder_releases (number : Nat) (holds : List CacheHold) (s : State) :
    let u := releaseOrder number holds s
    (bankFreed number s.walker.bank0 u.walker.bank0 ∧ bankFreed number s.walker.bank1 u.walker.bank1) ∧
      (∀ n < s.intake.slots.length, (slotAt s n).owner = some number → (slotAt u n).state = .free) ∧
      ∀ n, u.cache.entries[n]? = s.cache.entries[n]?.map fun e : CacheEntry =>
        if e.state = .empty then e else { e with holds := e.holds - (holds.map CacheHold.entry).count n } := by
  intro u
  obtain ⟨entries, released⟩ := releaseHolds_eq holds s
  obtain ⟨_, _, _, swept⟩ := sweepSlots_parts number (freeBanks number (releaseHolds holds s))
  have freed : ∀ b : ToneBank, bankFreed number b
      (if b.owner = some number then { b with state := .free, owner := none, pieces := [], awaited := 0 } else b) := by
    intro b
    unfold bankFreed
    split <;> simp
  have walker : u.walker = (freeBanks number (releaseHolds holds s)).walker := by
    show (sweepSlots number (freeBanks number (releaseHolds holds s))).walker = _
    rw [swept]
  have cache : u.cache = (releaseHolds holds s).cache := by
    show (sweepSlots number (freeBanks number (releaseHolds holds s))).cache = _
    rw [swept]
    rfl
  refine ⟨?_, fun n inside own => ?_, fun n => ?_⟩
  · rw [walker, released]
    exact ⟨freed s.walker.bank0, freed s.walker.bank1⟩
  · have free : SlotIn [.free] n (sweepSlots number (freeBanks number (releaseHolds holds s))) := by
      rw [released, sweepSlots_fold]
      exact sweep_frees (.inl ⟨List.mem_range.2 inside, inside, own⟩)
    exact List.mem_singleton.1 free.2
  · rw [cache, releaseHolds_entries]

theorem releaseOrder_leaves (number : Nat) (holds : List CacheHold) (s : State) :
    let u := releaseOrder number holds s
    u.port = s.port ∧ u.walker.ordersFinished = s.walker.ordersFinished ∧ u.walker.taken = s.walker.taken ∧
      u.walker.active = s.walker.active := by
  obtain ⟨_, _, _, _, _, _, _, e⟩ := releaseOrder_eq number holds s
  rw [e]
  exact ⟨rfl, rfl, rfl, rfl⟩

/-! ## The final state accepted (R144, R145) -/

/-- The state in which the record of the order whose final state is accepted is gone, `r` holding what is released
(R144). -/
def recordDropped (fromTaken : Bool) (r : State) : State :=
  if fromTaken then modWalker (fun w => { w with taken := none, recheckTimer := none }) r
  else plateIdle (modMerge (fun m => { m with params := none }) (modWalker (fun w => { w with active := none }) r))

theorem finalStateEnded_accepted {s : State} {fromTaken : Bool} {number : Nat} {holds : List CacheHold}
    (order : if fromTaken then ∃ o, s.walker.taken = some o ∧ o.number = number ∧ o.holds = holds
      else ∃ a, s.walker.active = some a ∧ a.number = number ∧ a.holds = holds) :
    finalStateEnded fromTaken true s = countFinished (recordDropped fromTaken (releaseOrder number holds s)) := by
  unfold finalStateEnded recordDropped
  cases fromTaken with
  | true =>
    obtain ⟨o, taken, rfl, rfl⟩ := order
    show countFinished (dropTaken s) = _
    unfold dropTaken
    rw [taken]
    rfl
  | false =>
    obtain ⟨a, active, rfl, rfl⟩ := order
    show countFinished (dropActive s) = _
    unfold dropActive
    rw [active]
    rfl

theorem countFinished_eq {s : State} {w : Settings} (settings : s.port.settings = some w) :
    countFinished s =
      { s with
        walker := { s.walker with ordersFinished := s.walker.ordersFinished + 1 }
        port := { s.port with walkerRequests := s.port.walkerRequests ++
          [⟨.write (leBytes 4 (s.walker.ordersFinished + 1).toNat), w.anchor + 256, .ordersFinished, false⟩] } } := by
  unfold countFinished
  rw [anchorField_eq settings]
  rfl

/-- The record's end leaves what is released and the port as they are (R144). -/
theorem recordDropped_leaves (fromTaken : Bool) (r : State) :
    let u := recordDropped fromTaken r
    u.port = r.port ∧ u.cache = r.cache ∧ u.intake = r.intake ∧ u.walker.bank0 = r.walker.bank0 ∧
      u.walker.bank1 = r.walker.bank1 ∧ u.walker.ordersFinished = r.walker.ordersFinished ∧
      u.walker.taken = (if fromTaken then none else r.walker.taken) ∧
      u.walker.active = (if fromTaken then r.walker.active else none) := by
  cases fromTaken <;> exact ⟨rfl, rfl, rfl, rfl, rfl, rfl, rfl, rfl⟩

/-- Settles O59. -/
theorem finalStatesCloseTheOrder : Obligations.FinalStatesCloseTheOrder := by
  refine ⟨fun s a active => ?writes, fun s q r data w fromTaken number holds due purpose settings order => ?accepted,
    fun s q r data due purpose => due.effects (by rw [purpose]; rfl)⟩
  case writes =>
    intro ready state published thickness
    refine ⟨fun isReady => ?_, fun notReady => ?_⟩
    · unfold finalAdvance
      rw [active]
      dsimp only
      rw [if_pos ((finalDue_iff s a).2 isReady)]
      simp only [modActive, modWalker, active, Option.map_some]
      rfl
    · unfold finalAdvance
      rw [active]
      exact if_neg (mt (finalDue_iff s a).1 notReady)
  case accepted =>
    intro t finished
    have order' : if fromTaken then ∃ o, t.walker.taken = some o ∧ o.number = number ∧ o.holds = holds
        else ∃ a, t.walker.active = some a ∧ a.number = number ∧ a.holds = holds := by
      rw [sentState_taken, sentState_active]
      exact order
    have turn : grantTurn s = countFinished (recordDropped fromTaken (releaseOrder number holds t)) := by
      rw [due.turn_eq, purpose]
      exact finalStateEnded_accepted order'
    have settings' : (recordDropped fromTaken (releaseOrder number holds t)).port.settings = some w := by
      rw [(recordDropped_leaves fromTaken _).1, (releaseOrder_leaves number holds t).1]
      simpa [t] using settings
    obtain ⟨port, cache, intake, bank0, bank1, count, taken, active⟩ :=
      recordDropped_leaves fromTaken (releaseOrder number holds t)
    obtain ⟨port', count', taken', active'⟩ := releaseOrder_leaves number holds t
    obtain ⟨⟨freed0, freed1⟩, slots, entries⟩ := releaseOrder_releases number holds t
    have ended : t.walker.ordersFinished = s.walker.ordersFinished := sentState_ordersFinished ..
    have low : t.walker.bank0 = s.walker.bank0 := sentState_bank0 ..
    have high : t.walker.bank1 = s.walker.bank1 := sentState_bank1 ..
    have table : t.intake = s.intake := sentState_intake ..
    have at' : ∀ n, slotAt t n = slotAt s n := fun n => by
      unfold slotAt
      rw [table]
    refine ⟨countFinished (recordDropped fromTaken (releaseOrder number holds t)), by rw [← turn]; rfl, ?_⟩
    rw [countFinished_eq settings']
    refine ⟨?_, ?_, ?_, ?_, fun own => ?_, ⟨?_, ?_⟩, fun n inside own => ?_, fun n => ?_⟩
    · show _ + 1 = _
      rw [count, count', ended]
    · show _ ++ _ = _
      rw [port, port', count, count', ended]
    · show (recordDropped fromTaken (releaseOrder number holds t)).walker.taken = _
      rw [taken, taken', sentState_taken]
    · show (recordDropped fromTaken (releaseOrder number holds t)).walker.active = _
      rw [active, active', sentState_active]
    · subst own
      exact ⟨rfl, rfl, rfl⟩
    · rw [← low]
      exact bank0 ▸ freed0
    · rw [← high]
      exact bank1 ▸ freed1
    · have free := slots n (by rw [table]; exact inside) (by rw [at']; exact own)
      unfold slotAt at free ⊢
      exact (congrArg (fun i : Intake => (i.slots.getD n .reset).state) intake).trans free
    · show (recordDropped fromTaken (releaseOrder number holds t)).cache.entries[n]? = _
      rw [cache]
      exact entries n

end Sys2Proof.Machine
end

section
/-! PROOFS. Cancel samples and withdrawals (R129, R137, R138, R196). -/

namespace Sys2Proof.Machine

/-! ## Samples of the TAKEN order (R137, R138) -/

/-- The TAKEN order's recheck sample answered, the timer started anew (R137). -/
def recheckAnswered (w : Settings) (o : TakenOrder) (s : State) : State :=
  { s with walker := { s.walker with recheckTimer := some w.recheck, taken := some { o with recheckSample := none } } }

section
variable {s : State} {o : TakenOrder} {op : Nat} {w : Settings}

theorem takenSampled_eq (taken : s.walker.taken = some o) (sample : o.recheckSample = some op)
    (settings : s.port.settings = some w) (withdraw : Bool) :
    takenSampled op withdraw s =
      if withdraw then endTaken .none stateWithdrawn (recheckAnswered w o s) else recheckAnswered w o s := by
  have answered : modWalker (fun x => { x with recheckTimer := some (recheckLimit s) })
      (modTaken (fun o => { o with recheckSample := none }) s) = recheckAnswered w o s := by
    rw [modTaken_some _ taken, recheckLimit, settings]
    rfl
  unfold takenSampled
  rw [taken]
  dsimp only
  rw [sample, if_neg (not_not.2 rfl), answered]

theorem activationSampled_withdraws (taken : s.walker.taken = some o) (sample : o.activationSample = some op) :
    activationSampled op true s =
      endTaken .none stateWithdrawn
        { s with walker := { s.walker with taken := some { o with activationSample := none } } } := by
  unfold activationSampled
  rw [taken]
  dsimp only
  rw [sample, if_neg (not_not.2 rfl), if_pos rfl, modTaken_some _ taken]

/-- A withdrawal of the TAKEN order presents its final write at once: its setup abandoned, no code (R136, R138). -/
theorem endTaken_withdraws (taken : s.walker.taken = some o) (ending : o.ending = false) :
    let u := endTaken .none stateWithdrawn s
    ∃ e kept, u.walker.taken = some e ∧ e.ending = true ∧ e.primary = .none ∧ e.toResolve = [] ∧
      e.holds = o.holds ∧ u.cache = s.cache ∧ u.plate = s.plate ∧
      u.port.walkerRequests = kept ++
        [⟨.write (finalGroup .none .none o.clamps 0 0 0 0), o.address + 24, .orderWrite, false⟩,
          ⟨.write (leBytes 4 6), o.address, .finalState true, false⟩] ∧
      ∀ x ∈ kept, x ∈ s.port.walkerRequests := by
  dsimp only
  rw [endTaken_eq taken ending]
  exact ⟨_, _, rfl, rfl, rfl, rfl, rfl, rfl, rfl, rfl, fun x mem => (List.mem_filter.1 mem).1⟩

end

/-! ## Samples of the ACTIVE order (R196) -/

section
variable {s : State} {op : Nat} {use : SampleUse}

theorem sampleAnswered_eq (sample : s.plate.sample = some ⟨op, use⟩) (withdraw : Bool) :
    sampleAnswered op withdraw s =
      let answered := modPlate (fun p => { p with sample := none }) s
      if withdraw then withdrawActive answered else sampleGoOn use answered := by
  unfold sampleAnswered
  rw [sample]
  exact if_neg (not_not.2 rfl)

theorem sampleGoOn_boundary {o : PlateOrder} {b : PlateBody} (order : s.plate.order = some o)
    (body : o.body = .plate b) (left : s.plate.capture ≠ b.nx * b.ny) :
    sampleGoOn .boundary s = modPlate (fun p => { p with phase := .reserving, recheckTimer := some o.recheck }) s := by
  obtain ⟨number, tag, body', motion, frame, recheck, exposure⟩ := o
  dsimp only at body
  subst body
  unfold sampleGoOn
  dsimp only
  rw [order]
  exact if_neg left

end

theorem sampleGoOn_wait {s : State} {o : PlateOrder} (order : s.plate.order = some o) :
    sampleGoOn .wait s = modPlate (fun p => { p with recheckTimer := some o.recheck }) s := by
  simp only [sampleGoOn, modPlate, order, Option.map_some]

/-! ## The recheck timer and the walk (R126, R129, R137) -/

theorem walkRecheck_samples {s : State} {left : Nat} {o : TakenOrder} (timer : s.walker.recheckTimer = some left)
    (taken : s.walker.taken = some o) (ending : o.ending = false) :
    walkRecheck s =
      presentWalker [readRequest (o.address + 8) 4 (.cancelTaken s.nextOp)]
        (modTaken (fun o => { o with recheckSample := some s.nextOp })
          (useOp (modWalker (fun w => { w with recheckTimer := none }) s))) := by
  unfold walkRecheck
  rw [timer, taken]
  exact if_neg (by rw [ending]; exact Bool.false_ne_true)

theorem chainHeaderRead_withdraws {s : State} {op address : Nat} {data : List Byte}
    (examination : s.walker.examination = some op) (posted : fieldNat data 0 4 = 1) (cancel : fieldNat data 8 4 ≠ 0) :
    chainHeaderRead op address data s = withdrawCandidate address s := by
  unfold chainHeaderRead
  rw [if_neg (not_not.2 examination), if_neg (not_not.2 posted), if_pos cancel]

/-- Settles O60. -/
theorem cancelSamplesWithdraw : Obligations.CancelSamplesWithdraw := by
  refine ⟨fun s left o timer taken ending => ?expires, fun s n op r o w found sent taken settings => ?answers,
    fun s n op address r data found purpose sent length examination posted cancel => ?candidate,
    fun s q r data w due purpose settings => ?withdrawn,
    fun s n op use r a o data found purpose sent length sample active ending order open' => ?active⟩
  case expires =>
    refine .of_settle rfl ?_
    rw [walkRecheck_samples timer taken ending,
      modTaken_some (s := useOp (modWalker (fun w => { w with recheckTimer := none }) s)) _ taken]
    rfl
  case answers =>
    refine ⟨fun purpose sample => ?_, fun either ending data length asked => ?_⟩
    · intro goOn
      have goesOn : takenSampled op false (removeRead n s) = goOn :=
        takenSampled_eq (s := removeRead n s) taken sample settings false
      refine ⟨fun data length zero => .of_settle rfl ?_, .of_settle rfl ?_, .of_settle rfl ?_⟩
      · rw [completeRead_eq found sent length, purpose]
        show takenSampled op (leNat data ≠ 0) _ = _
        rw [zero]
        exact goesOn
      · rw [errorRead_eq found sent, purpose]
        exact goesOn
      · rw [timeoutRead_eq found, purpose]
        exact goesOn
    · have withdraws : ∃ (t : State) (x : TakenOrder), completeRead n data s = endTaken .none stateWithdrawn t ∧
          t.walker.taken = some x ∧ x.ending = false ∧ x.holds = o.holds ∧ x.clamps = o.clamps ∧
          x.address = o.address ∧ t.cache = s.cache ∧ t.plate = s.plate ∧
          t.port.walkerRequests = s.port.walkerRequests := by
        rw [completeRead_eq found sent length]
        rcases either with ⟨purpose, sample⟩ | ⟨purpose, sample⟩
        · refine ⟨recheckAnswered w o (removeRead n s), _, ?_, rfl,
            ending, rfl, rfl, rfl, rfl, rfl, rfl⟩
          rw [purpose]
          show takenSampled op (leNat data ≠ 0) _ = _
          rw [decide_eq_true asked]
          exact takenSampled_eq (s := removeRead n s) taken sample settings true
        · refine ⟨{ removeRead n s with
              walker := { s.walker with taken := some { o with activationSample := none } } }, _, ?_, rfl, ending, rfl, rfl, rfl, rfl, rfl, rfl⟩
          rw [purpose]
          show activationSampled op (leNat data ≠ 0) _ = _
          rw [decide_eq_true asked]
          exact activationSampled_withdraws (s := removeRead n s) taken sample
      obtain ⟨t, x, ended, taken', ending', holds, clamps, address, cache, plate, requests⟩ := withdraws
      obtain ⟨e, kept, taken'', ends, primary, resolve, holds', cache', plate', presented, keeps⟩ :=
        endTaken_withdraws taken' ending'
      rw [clamps, address] at presented
      refine ⟨_, e, kept, rfl, ?_⟩
      rw [ended]
      exact ⟨taken'', ends, primary, resolve, holds'.trans holds, cache'.trans cache, plate'.trans plate, presented,
        fun y mem => requests ▸ keeps y mem⟩
  case candidate =>
    refine .of_settle rfl ?_
    rw [completeRead_eq found sent length, purpose]
    exact chainHeaderRead_withdraws (s := removeRead n s) examination posted cancel
  case withdrawn =>
    intro t finished
    refine due.effects ?_
    rw [purpose]
    have ended : t.walker.ordersFinished = s.walker.ordersFinished := sentState_ordersFinished ..
    refine (countFinished_eq (s := t) (w := w) (by simpa [t] using settings)).trans ?_
    rw [ended]
  case active =>
    have answered : ∀ withdraw, decide (leNat data ≠ 0) = withdraw → completeRead n data s =
        if withdraw then withdrawActive (modPlate (fun p => { p with sample := none }) (removeRead n s))
        else sampleGoOn use (modPlate (fun p => { p with sample := none }) (removeRead n s)) := by
      intro withdraw asked
      rw [completeRead_eq found sent length, purpose]
      show sampleAnswered op (leNat data ≠ 0) _ = _
      rw [asked]
      exact sampleAnswered_eq (s := removeRead n s) sample withdraw
    refine ⟨fun asked => ?_, fun zero => ?_⟩
    · have withdraws := answered true (decide_eq_true asked)
      obtain ⟨_, _, _, ended, e⟩ := withdrawActive_eq
        (s := modPlate (fun p => { p with sample := none }) (removeRead n s)) active ending open'
      rw [if_pos rfl, e] at withdraws
      refine ⟨_, { handCounts s.plate a with withdrawn := true, workEnded := a.workEnded || ended }, rfl, ?_⟩
      rw [withdraws]
      exact ⟨rfl, rfl, rfl, rfl, rfl, rfl, rfl, rfl, rfl, rfl, rfl, rfl, rfl, rfl⟩
    · intro resumed
      have goes := answered false (decide_eq_false (not_not.2 zero))
      rw [if_neg Bool.false_ne_true] at goes
      refine ⟨fun wait => .of_settle rfl (goes.trans ?_), fun b boundary body left => .of_settle rfl (goes.trans ?_)⟩
      · subst wait
        exact sampleGoOn_wait (s := modPlate _ (removeRead n s)) order
      · subst boundary
        exact sampleGoOn_boundary (s := modPlate _ (removeRead n s)) order body left

end Sys2Proof.Machine
end
